-- ==== Sys2Proof/Word.lean ====
section
/-! DEFINITION. The plain data widths of the block (spec 00_scope.md R8). -/

namespace Sys2Proof

/-- A control byte, a payload byte, a framebuffer byte: 8 bits (R8). -/
abbrev Byte := BitVec 8

/-- A bus address: 7 bits (R8). -/
abbrev BusAddr := BitVec 7

/-- A pixel coordinate as the request port carries it: 16 bits, two's complement (R8, D4). -/
abbrev Coord := BitVec 16

end Sys2Proof
end

