-- ==== Sys2Proof/Config.lean ====
section
/-! DEFINITION. What a build of the block fixes (00_scope.md R6, R7, 10_state.md R29) and the one free value, the bus
outcome of a frame that no script names (40_bus_transport.md R101). -/

namespace Sys2Proof

/-! ## Geometry: fixed for this hardware (00_scope.md R6) -/

/-- WIDTH (R6). -/
abbrev width : Nat := 72
/-- HEIGHT (R6). -/
abbrev height : Nat := 40
/-- COL_OFFSET (R6). -/
abbrev colOffset : Nat := 28
/-- NATIVE_COLS (R6): only used to say that the column window fits. -/
abbrev nativeCols : Nat := 128
/-- PAGES = ceil(HEIGHT / 8) (R6). -/
abbrev pages : Nat := (height + 7) / 8
/-- FB_BYTES = WIDTH × PAGES (R6). -/
abbrev fbBytes : Nat := width * pages
/-- PIXELS = WIDTH × HEIGHT (R6). -/
abbrev pixels : Nat := width * height

/-! ## The bus environment's answer -/

/-- The one outcome of a submitted frame (40_bus_transport.md R101). -/
inductive BusOutcome where
  | ack
  | nack
  | timeout
deriving DecidableEq, Repr, Inhabited

/-- FREE VALUE (DESIGN CHOICE of form, assumption log 2, safe). The outcome of the n-th frame submitted, where the state's script
names none: "a free draw of the environment" (40_bus_transport.md R101). It has no body, so nothing is provable of it. -/
opaque Config.freeOutcome : Nat → BusOutcome

/-! ## Open parameters (00_scope.md R7) -/

/-- INIT_FRAMING (R7, 30_encoding.md R82). -/
inductive InitFraming where
  | perStep
  | single
deriving DecidableEq, Repr

/-- FLUSH_CMD_FRAMING (R7, 44_flush.md R200). -/
inductive FlushFraming where
  | triplet
  | separate
deriving DecidableEq, Repr

/-- The parameters the sources leave open (00_scope.md R7). -/
structure Params where
  /-- PANEL_ADDR. -/
  panelAddr : BusAddr
  /-- INIT_TABLE: entry k of the spec (from 1) is list element k - 1. -/
  initTable : List (List Byte)
  /-- INIT_FRAMING. -/
  initFraming : InitFraming
  /-- FLUSH_CMD_FRAMING. -/
  flushFraming : FlushFraming
  /-- MAX_PAYLOAD. -/
  maxPayload : Nat
  /-- SCAN_LO. -/
  scanLo : BusAddr
  /-- SCAN_HI. -/
  scanHi : BusAddr
  /-- T_WRITE_MS: informational, no rule depends on it (60_exceptions.md R249). -/
  tWriteMs : Nat
  /-- T_PROBE_MS: informational, no rule depends on it (60_exceptions.md R249). -/
  tProbeMs : Nat
deriving DecidableEq, Repr

/-- The default INIT_TABLE of 30_encoding.md R80. PRESUMED (assumption log 4, unsafe): the bytes are the spec's general
knowledge, and no statement of this package rests on them. -/
def defaultInitTable : List (List Byte) :=
  [ [0xAE], [0xD5, 0x80], [0xA8, 0x27], [0xD3, 0x00], [0xAD, 0x30], [0x8D, 0x14] ] ++
  [ [0x40], [0xA6], [0xA4], [0x20, 0x00], [0xA1], [0xC8] ] ++
  [ [0xDA, 0x12], [0x81, 0x7F], [0xD9, 0x22], [0xDB, 0x20], [0x2E], [0xAF] ]

/-- The defaults of the table of 00_scope.md R7. PANEL_ADDR and INIT_TABLE are PRESUMED (assumption log 4, unsafe). -/
def Params.default : Params where
  panelAddr := 0x3C
  initTable := defaultInitTable
  initFraming := .perStep
  flushFraming := .triplet
  maxPayload := 65535
  scanLo := 0x03
  scanHi := 0x77
  tWriteMs := 100
  tProbeMs := 30

/-! ## Parameters of the clients outside the block -/

/-- FONT: 256 glyphs of 8 rows of 8 bits, row 0 the top row (43_glyph_renderer.md R180); its contents are not in the
spec, so every client procedure takes it as an argument. -/
abbrev Font := Byte → Fin 8 → Byte

/-- GLYPH_BIT_ORDER (43_glyph_renderer.md R181). -/
inductive GlyphBitOrder where
  | msbLeft
  | lsbLeft
deriving DecidableEq, Repr

/-- EMPTY_LINE (45_serial_line.md R222). -/
inductive EmptyLine where
  | emit
  | skip
deriving DecidableEq, Repr

end Sys2Proof
end

