-- ==== Sys2Proof/Syntax.lean ====
section
/-! DEFINITION. The rows of spec/opcode_table.json as one inductive: the nine operations a host requests
(30_encoding.md R61, R62) and the six byte patterns the framer puts on the wire (30_encoding.md R71, R72, R75–R77). -/

namespace Sys2Proof

/-- One constructor per row of spec/opcode_table.json. The last six are wire bytes: the framer composes them into the
frame in flight; no host request decodes to one (assumption log 3, DESIGN CHOICE). -/
inductive Instr where
  /-- WRITE, format F2 (40_bus_transport.md R100). -/
  | write (addr : BusAddr) (ctrl : Byte) (payload : List Byte)
  /-- PROBE, format F1 (40_bus_transport.md R104). -/
  | probe (addr : BusAddr)
  /-- SCAN, format F0 (40_bus_transport.md R108). -/
  | scan
  /-- SEND_CMD, format F3 (41_panel_controller.md R130). -/
  | sendCmd (bytes : List Byte)
  /-- SEND_DATA, format F3 (41_panel_controller.md R132). -/
  | sendData (bytes : List Byte)
  /-- INIT, format F0 (41_panel_controller.md R136). -/
  | init
  /-- SET_PIXEL, format F4 (42_framebuffer.md R160). -/
  | setPixel (x y : Coord) (on : Bool)
  /-- CLEAR, format F0 (42_framebuffer.md R165). -/
  | clear
  /-- FLUSH, format F0 (44_flush.md R200). -/
  | flush
  /-- wire:ADDR_BYTE, `aaaaaaa0` (30_encoding.md R71). -/
  | wireAddrByte (a : BusAddr)
  /-- wire:CTRL_CMD, `00000000` (30_encoding.md R72). -/
  | wireCtrlCmd
  /-- wire:CTRL_DATA, `01000000` (30_encoding.md R72). -/
  | wireCtrlData
  /-- wire:LOW_COL, `0000llll` (30_encoding.md R75). -/
  | wireLowCol (l : BitVec 4)
  /-- wire:HIGH_COL, `0001hhhh` (30_encoding.md R76). -/
  | wireHighCol (h : BitVec 4)
  /-- wire:PAGE, `1011pppp` (30_encoding.md R77). -/
  | wirePage (p : BitVec 4)
deriving DecidableEq, Repr

/-- The pseudo-operation `PSET x, y` (30_encoding.md R67). -/
def Instr.pset (x y : Coord) : Instr := .setPixel x y true

/-- The pseudo-operation `PCLR x, y` (30_encoding.md R67). -/
def Instr.pclr (x y : Coord) : Instr := .setPixel x y false

/-- The place of a byte in a frame, which says which wire pattern it follows: the byte after start, the byte after the
address byte, and the three bytes of an addressing triplet in their order (44_flush.md R204). -/
inductive WireSlot where
  | address
  | control
  | lowColumn
  | highColumn
  | page
deriving DecidableEq, Repr

/-- The place of a wire byte, and none for an operation. -/
def Instr.wireSlot : Instr → Option WireSlot
  | .wireAddrByte _ => some .address
  | .wireCtrlCmd => some .control
  | .wireCtrlData => some .control
  | .wireLowCol _ => some .lowColumn
  | .wireHighCol _ => some .highColumn
  | .wirePage _ => some .page
  | .write _ _ _ => none
  | .probe _ => none
  | .scan => none
  | .sendCmd _ => none
  | .sendData _ => none
  | .init => none
  | .setPixel _ _ _ => none
  | .clear => none
  | .flush => none

/-- Is it one of the nine operations of 30_encoding.md R62? -/
def Instr.isOperation (i : Instr) : Bool := i.wireSlot.isNone

end Sys2Proof
end

