-- ==== Sys2Proof/WellFormed.lean ====
section
/-! DEFINITION. Well-formed requests (30_encoding.md R63, R65) and well-formed configurations (00_scope.md R7,
30_encoding.md R81). -/

namespace Sys2Proof

/-- A payload fits its request: its length fits the 16-bit field L and is at most MAX_PAYLOAD (30_encoding.md R63,
R65 (d)). -/
def payloadFits (maxPayload : Nat) (payload : List Byte) : Bool :=
  payload.length < 65536 && payload.length ≤ maxPayload

/-- The instruction has an encoding under a build whose payload limit is `maxPayload`. All other operands fit their
fields by their types. -/
def Instr.wellFormed (maxPayload : Nat) : Instr → Bool
  | .write _ _ payload => payloadFits maxPayload payload
  | .sendCmd bytes => payloadFits maxPayload bytes
  | .sendData bytes => payloadFits maxPayload bytes
  | .probe _ => true
  | .scan => true
  | .init => true
  | .setPixel _ _ _ => true
  | .clear => true
  | .flush => true
  | .wireAddrByte _ => true
  | .wireCtrlCmd => true
  | .wireCtrlData => true
  | .wireLowCol _ => true
  | .wireHighCol _ => true
  | .wirePage _ => true

/-- 30_encoding.md R81 and the bound MAX_PAYLOAD ≥ WIDTH of 00_scope.md R7. -/
def Params.wellFormed (p : Params) : Bool :=
  p.initTable.length == 18
    && p.initTable.all (fun step => !step.isEmpty && step.length ≤ p.maxPayload)
    && (p.initFraming != .single || p.initTable.flatten.length ≤ p.maxPayload)
    && width ≤ p.maxPayload

/-- A configuration: parameters that pass the checks, with the proof that they do, so that "a table that fails this is
refused by the model at configuration time" (30_encoding.md R81). -/
abbrev Config := { p : Params // p.wellFormed = true }

/-- Configuration time: the checks run, and a failing set of parameters is refused. -/
def Params.configure (p : Params) : Option Config :=
  if h : p.wellFormed = true then some ⟨p, h⟩ else none

/-- The build with the default parameters of 00_scope.md R7. -/
def defaultConfig : Config := ⟨Params.default, by decide⟩

end Sys2Proof
end

