-- ==== Sys2Proof/Decode.lean ====
section
/-! DEFINITION. The request decoder, total on any byte string and rejecting by name (30_encoding.md R60–R65), the
encoder, the decoder of wire bytes by their place in a frame, and `decodeTableWord`. -/

namespace Sys2Proof

/-! ## Field helpers -/

/-- v[7:0] of a 16-bit value. -/
def lowByte (v : BitVec 16) : Byte := v.extractLsb' 0 8

/-- v[15:8] of a 16-bit value. -/
def highByte (v : BitVec 16) : Byte := v.extractLsb' 8 8

/-- A 16-bit value from its low and high bytes: little-endian (30_encoding.md R63). -/
def join16 (lo hi : Byte) : BitVec 16 := lo.zeroExtend 16 ||| (hi.zeroExtend 16 <<< 8)

/-- The address byte of F1 and F2: `0aaaaaaa` (30_encoding.md R61). -/
def addrOperand (addr : BusAddr) : Byte := addr.zeroExtend 8

/-! ## Op codes (30_encoding.md R62) -/

/-- The request formats of 30_encoding.md R61. -/
inductive Format where
  | f0
  | f1
  | f2
  | f3
  | f4
deriving DecidableEq, Repr

def opWrite : Byte := 0x01
def opProbe : Byte := 0x02
def opScan : Byte := 0x03
def opSendCmd : Byte := 0x10
def opSendData : Byte := 0x11
def opInit : Byte := 0x12
def opSetPixel : Byte := 0x20
def opClear : Byte := 0x21
def opFlush : Byte := 0x30

/-- The format byte 0 selects, and none for an unassigned op code (30_encoding.md R62). -/
def formatOf (op : Byte) : Option Format :=
  if op = opWrite then some .f2
  else if op = opProbe then some .f1
  else if op = opScan then some .f0
  else if op = opSendCmd then some .f3
  else if op = opSendData then some .f3
  else if op = opInit then some .f0
  else if op = opSetPixel then some .f4
  else if op = opClear then some .f0
  else if op = opFlush then some .f0
  else none

/-! ## Decoding -/

/-- Why a request is illegal: the checks (a) to (e) of 30_encoding.md R65. All of them give the same status. -/
inductive DecodeError where
  /-- (a) byte 0 is unassigned. -/
  | unassignedOp
  /-- (b) the length differs from the one the format gives; a string of no bytes is counted here (assumption log 9, DEDUCED). -/
  | wrongLength
  /-- (c) byte1[7] = 1 in F1 or F2. -/
  | addressBit7
  /-- (d) L > MAX_PAYLOAD in F2 or F3. -/
  | payloadTooLong
  /-- (e) byte5 of F4 is neither 0x00 nor 0x01. -/
  | badOn
deriving DecidableEq, Repr

/-- Format F0: no operand. -/
def decodeF0 (i : Instr) : List Byte → Except DecodeError Instr
  | [] => .ok i
  | _ :: _ => .error .wrongLength

/-- Format F1: one address byte; checks (b), (c). -/
def decodeF1 (make : BusAddr → Instr) : List Byte → Except DecodeError Instr
  | [a] => if a.getLsbD 7 then .error .addressBit7 else .ok (make (a.truncate 7))
  | _ => .error .wrongLength

/-- Format F2: address, control byte, L, payload; checks (b), (c), (d) in that order. -/
def decodeF2 (maxPayload : Nat) (make : BusAddr → Byte → List Byte → Instr) : List Byte → Except DecodeError Instr
  | a :: ctrl :: l0 :: l1 :: payload =>
    if payload.length ≠ (join16 l0 l1).toNat then .error .wrongLength
    else if a.getLsbD 7 then .error .addressBit7
    else if maxPayload < (join16 l0 l1).toNat then .error .payloadTooLong
    else .ok (make (a.truncate 7) ctrl payload)
  | _ => .error .wrongLength

/-- Format F3: L, payload; checks (b), (d). -/
def decodeF3 (maxPayload : Nat) (make : List Byte → Instr) : List Byte → Except DecodeError Instr
  | l0 :: l1 :: payload =>
    if payload.length ≠ (join16 l0 l1).toNat then .error .wrongLength
    else if maxPayload < (join16 l0 l1).toNat then .error .payloadTooLong
    else .ok (make payload)
  | _ => .error .wrongLength

/-- The `on` byte of F4: 0x00 clears, 0x01 sets (30_encoding.md R63, R65 (e)). -/
def decodeOn (v : Byte) : Except DecodeError Bool :=
  if v = 0x00 then .ok false else if v = 0x01 then .ok true else .error .badOn

/-- Format F4: x, y, on; checks (b), (e). -/
def decodeF4 (make : Coord → Coord → Bool → Instr) : List Byte → Except DecodeError Instr
  | [x0, x1, y0, y1, on] =>
    match decodeOn on with
    | .ok b => .ok (make (join16 x0 x1) (join16 y0 y1) b)
    | .error e => .error e
  | _ => .error .wrongLength

/-- The request decoder (30_encoding.md R60–R65): the whole string, all 8 bits of byte 0. -/
def decode (maxPayload : Nat) : List Byte → Except DecodeError Instr
  | [] => .error .wrongLength
  | op :: rest =>
    if op = opWrite then decodeF2 maxPayload .write rest
    else if op = opProbe then decodeF1 .probe rest
    else if op = opScan then decodeF0 .scan rest
    else if op = opSendCmd then decodeF3 maxPayload .sendCmd rest
    else if op = opSendData then decodeF3 maxPayload .sendData rest
    else if op = opInit then decodeF0 .init rest
    else if op = opSetPixel then decodeF4 .setPixel rest
    else if op = opClear then decodeF0 .clear rest
    else if op = opFlush then decodeF0 .flush rest
    else .error .unassignedOp

/-- A wire byte by its place in a frame (30_encoding.md R71, R72, R75–R77); a byte that does not follow the pattern of
its place is refused. -/
def decodeWire (slot : WireSlot) (v : Byte) : Option Instr :=
  match slot with
  | .address => if v.getLsbD 0 then none else some (.wireAddrByte (v.extractLsb' 1 7))
  | .control => if v = 0x00 then some .wireCtrlCmd else if v = 0x40 then some .wireCtrlData else none
  | .lowColumn => if v.extractLsb' 4 4 = 0x0 then some (.wireLowCol (v.extractLsb' 0 4)) else none
  | .highColumn => if v.extractLsb' 4 4 = 0x1 then some (.wireHighCol (v.extractLsb' 0 4)) else none
  | .page => if v.extractLsb' 4 4 = 0xB then some (.wirePage (v.extractLsb' 0 4)) else none

/-! ## Encoding -/

/-- A payload behind its 16-bit length, low byte first. -/
def encodePayload (payload : List Byte) : List Byte :=
  lowByte (BitVec.ofNat 16 payload.length) :: highByte (BitVec.ofNat 16 payload.length) :: payload

/-- The `on` byte. -/
def encodeOn (on : Bool) : Byte := if on then 0x01 else 0x00

/-- The bytes of an instruction: a request string for an operation (30_encoding.md R61, R62), the one wire byte for a
wire pattern (R71, R72, R75–R77). -/
def encode : Instr → List Byte
  | .write addr ctrl payload => opWrite :: addrOperand addr :: ctrl :: encodePayload payload
  | .probe addr => [opProbe, addrOperand addr]
  | .scan => [opScan]
  | .sendCmd bytes => opSendCmd :: encodePayload bytes
  | .sendData bytes => opSendData :: encodePayload bytes
  | .init => [opInit]
  | .setPixel x y on => [opSetPixel, lowByte x, highByte x, lowByte y, highByte y, encodeOn on]
  | .clear => [opClear]
  | .flush => [opFlush]
  | .wireAddrByte a => [a ++ 0#1]
  | .wireCtrlCmd => [0x00]
  | .wireCtrlData => [0x40]
  | .wireLowCol l => [0x0#4 ++ l]
  | .wireHighCol h => [0x1#4 ++ h]
  | .wirePage p => [0xB#4 ++ p]

/-- The length of an operation's request (30_encoding.md R64), and 1 for a wire byte. -/
def byteLength : Instr → Nat
  | .write _ _ payload => 5 + payload.length
  | .probe _ => 2
  | .scan => 1
  | .sendCmd bytes => 3 + bytes.length
  | .sendData bytes => 3 + bytes.length
  | .init => 1
  | .setPixel _ _ _ => 6
  | .clear => 1
  | .flush => 1
  | .wireAddrByte _ => 1
  | .wireCtrlCmd => 1
  | .wireCtrlData => 1
  | .wireLowCol _ => 1
  | .wireHighCol _ => 1
  | .wirePage _ => 1

/-! ## A word of the opcode table -/

/-- Byte k of a number whose bit 0 is the least significant bit of byte 0. -/
def byteOfWord (w k : Nat) : Byte := BitVec.ofNat 8 (w / 2 ^ (8 * k))

/-- The first n bytes of a number. -/
def bytesOfWord (w n : Nat) : List Byte := (List.range n).map (byteOfWord w)

/-- How many bytes the request whose first bytes are the number's holds (30_encoding.md R64); 1 for an unassigned op. -/
def requestLength (w : Nat) : Nat :=
  match formatOf (byteOfWord w 0) with
  | some .f0 => 1
  | some .f1 => 2
  | some .f2 => 5 + (join16 (byteOfWord w 3) (byteOfWord w 4)).toNat
  | some .f3 => 3 + (join16 (byteOfWord w 1) (byteOfWord w 2)).toNat
  | some .f4 => 6
  | none => 1

/-- The request string whose bits are `w`, its bits from `nbits` on zero, laid out as the port carries it: at least the
table's bytes, and zeros up to the length the format gives. -/
def tableBytes (nbits w : Nat) : List Byte :=
  let bits := w % 2 ^ nbits
  bytesOfWord bits (max ((nbits + 7) / 8) (requestLength bits))

/-- What the request decoder reads from the bits of an opcode-table row, under the default MAX_PAYLOAD. A wire byte is
no request: the port refuses it unless the same bits are an operation (30_encoding.md R62, R65). -/
def decodeTableWord (nbits w : Nat) : Option Instr :=
  match decode Params.default.maxPayload (tableBytes nbits w) with
  | .ok i => some i
  | .error _ => none

end Sys2Proof
end

