-- ==== Sys2Proof/Machine/State.lean ====
section
/-! DEFINITION. The state of the block (10_state.md), of its host port and of its bus environment, as plain data, and
the state right after reset (70_reset_and_hazards.md R270, R271). -/

namespace Sys2Proof.Machine

/-! ## How a step can stop -/

/-- What stops the machine. -/
inductive Fault where
  /-- A framebuffer access outside indices 0..359. Raised by `memRead` and `memWrite` only; no operation computes such an
  index (20_memory.md R41), so no step raises it. Safe: the machine stops where the spec gives no access (assumption log 7). -/
  | framebufferIndex (addr len : Nat)
deriving DecidableEq, Repr

/-- What the model gives no meaning to. -/
inductive Refusal where
  /-- An instruction that has no meaning yet; raised by no arm of `exec`. Safe: it stops. -/
  | notModelled (mnemonic : String)
deriving DecidableEq, Repr

/-! ## Frames and the log -/

/-- A symbol of a frame: start, a byte, stop (00_scope.md R11). -/
inductive Symbol where
  | start
  | byte (v : Byte)
  | stop
deriving DecidableEq, Repr

/-- A framed transaction (00_scope.md R11, R14). -/
abbrev Frame := List Symbol

/-- The kind of a transaction (00_scope.md R11). -/
inductive TxnKind where
  | write
  | probe
deriving DecidableEq, Repr

/-- One entry of LOG (10_state.md R27). -/
structure LogEntry where
  frame : Frame
  kind : TxnKind
  outcome : BusOutcome
deriving DecidableEq, Repr

/-! ## Errors, statuses, responses -/

/-- The cause of a bus error (00_scope.md R12). -/
inductive Cause where
  | nack
  | timeout
deriving DecidableEq, Repr

/-- The number of an init step, 0 for none (10_state.md R24); 19..31 cannot be written down (93_implementation_defined.md U1). -/
abbrev StepNo := Fin 19

/-- An operation's status (00_scope.md R12). InitError carries fail_cause as the register holds it; every reachable
InitError has a cause (assumption log 5). -/
inductive Status where
  | ok
  | busError (cause : Cause)
  | initError (step : StepNo) (cause : Option Cause)
  | illegalRequest
deriving DecidableEq, Repr

/-- What the host gets back: the status, and SCAN's presence bitmap (30_encoding.md R66); bit a is address a. -/
structure Response where
  status : Status
  present : Option (BitVec 128)
deriving DecidableEq, Repr

/-! ## The INIT_STATE register (10_state.md R24) -/

/-- INIT_STATE[1:0]; the value 3 is reserved and never written. -/
inductive Phase where
  | uninit
  | ready
  | failed
deriving DecidableEq, Repr

/-- INIT_STATE by its fields: "a model may type the fields as enumerations" (10_state.md R24). `InitState.toWord` is the
16-bit view, bits [15:9] reading 0. -/
structure InitState where
  state : Phase
  failCause : Option Cause
  failStep : StepNo
deriving DecidableEq, Repr

/-- The reset value of INIT_STATE, 0x0000 (10_state.md R25). -/
def InitState.reset : InitState := ⟨.uninit, none, 0⟩

/-! ## Hidden sequencer state (10_state.md R28) -/

/-- The counters of INIT, FLUSH and SCAN and the frame in flight; live only inside one operation. -/
structure Sequencer where
  /-- The init step counter, 1..18. -/
  k : Option Nat
  /-- The page counter, 0..4. -/
  p : Option Nat
  /-- The scan address counter. -/
  a : Option Nat
  /-- The frame in flight; the empty list when there is none. -/
  frame : Frame
deriving DecidableEq, Repr

/-- Nothing in progress. -/
def Sequencer.idle : Sequencer := ⟨none, none, none, []⟩

/-! ## The framebuffer (10_state.md R20, 20_memory.md R41) -/

/-- The framebuffer as (index, byte) pairs in one canonical form, see `Memory.wf`. -/
abbrev Memory := List Host.Cell

/-! ## The world outside the block -/

/-- What the host sends: a complete request string, or the reset signal (60_exceptions.md R253). -/
inductive HostInput where
  | request (bytes : List Byte)
  | reset
deriving DecidableEq, Repr

/-- The bus environment: the answers it is going to give, then free draws (assumption log 2, DESIGN CHOICE). -/
structure BusEnv where
  /-- The outcomes of the next frames, first the next one. -/
  script : List BusOutcome
  /-- How many outcomes have been drawn. -/
  drawn : Nat
deriving DecidableEq, Repr

/-! ## State -/

/-- Everything the spec gives the block, its build's configuration, its host port and its bus environment. -/
structure State where
  /-- FB[0..359] (10_state.md R20). -/
  fb : Memory
  /-- INIT_STATE (10_state.md R24). -/
  initState : InitState
  /-- LOG, oldest first (10_state.md R27). -/
  log : List LogEntry
  /-- Hidden sequencer state (10_state.md R28). -/
  seq : Sequencer
  /-- The build's configuration, changed by nothing (10_state.md R29; assumption log 4). -/
  cfg : Config
  /-- What the host has still to deliver, next first (assumption log 1). -/
  inputs : List HostInput
  /-- The responses returned so far, oldest first (00_scope.md R16; assumption log 8). -/
  responses : List Response
  /-- The bus environment (assumption log 2). -/
  bus : BusEnv
deriving DecidableEq, Repr

/-- The block right after reset (70_reset_and_hazards.md R271): FB zero, INIT_STATE 0x0000, LOG empty, no operation in
progress; the default build; the model's own fields empty (assumption logs 1, 2, 4, 8). -/
def State.reset : State where
  fb := []
  initState := .reset
  log := []
  seq := .idle
  cfg := defaultConfig
  inputs := []
  responses := []
  bus := ⟨[], 0⟩

end Sys2Proof.Machine
end

