-- ==== Sys2Proof/Machine/Flags.lean ====
section
/-! DEFINITION. The block has no flags or condition codes (10_state.md R32): the outcome of an operation is its status.
This file holds what stands in their place: the causes and statuses computed from a bus outcome, the 16-bit view of
INIT_STATE (10_state.md R24) and the bytes of a response (30_encoding.md R66). -/

namespace Sys2Proof.Machine

/-- The cause of a failing outcome, none for ACK (40_bus_transport.md R100, R103). -/
def causeOf : BusOutcome → Option Cause
  | .ack => none
  | .nack => some .nack
  | .timeout => some .timeout

/-- The status of a transaction: OK, or its BusError unchanged (40_bus_transport.md R103, 60_exceptions.md R242). -/
def Status.ofCause : Option Cause → Status
  | none => .ok
  | some c => .busError c

/-! ## INIT_STATE as a word (10_state.md R24) -/

/-- INIT_STATE[1:0]. -/
def Phase.code : Phase → Nat
  | .uninit => 0
  | .ready => 1
  | .failed => 2

/-- INIT_STATE[3:2], and the cause byte of an InitError response: 0 none, 1 NACK, 2 TIMEOUT. -/
def causeCode : Option Cause → Nat
  | none => 0
  | some .nack => 1
  | some .timeout => 2

/-- The 16 bits of INIT_STATE: state | fail_cause << 2 | fail_step << 4, bits [15:9] zero. -/
def InitState.toWord (r : InitState) : BitVec 16 :=
  BitVec.ofNat 16 (r.state.code ||| (causeCode r.failCause <<< 2) ||| (r.failStep.val <<< 4))

/-- `state` from its bits; 3 is reserved and refused (93_implementation_defined.md U1). -/
def Phase.ofCode (n : Nat) : Option Phase :=
  if n = 0 then some .uninit else if n = 1 then some .ready else if n = 2 then some .failed else none

/-- `fail_cause` from its bits; 3 is reserved and refused (93_implementation_defined.md U1). -/
def causeOfCode (n : Nat) : Option (Option Cause) :=
  if n = 0 then some none else if n = 1 then some (some .nack) else if n = 2 then some (some .timeout) else none

/-- `fail_step` from its bits; 19..31 are reserved and refused (93_implementation_defined.md U1). -/
def stepOfCode (n : Nat) : Option StepNo := if h : n < 19 then some ⟨n, h⟩ else none

/-- INIT_STATE from a 16-bit value; a value with a reserved encoding is refused (93_implementation_defined.md U1). -/
def InitState.ofWord (w : BitVec 16) : Option InitState :=
  if w.extractLsb' 9 7 ≠ 0 then none
  else
    match Phase.ofCode (w.extractLsb' 0 2).toNat, causeOfCode (w.extractLsb' 2 2).toNat,
      stepOfCode (w.extractLsb' 4 5).toNat with
    | some st, some c, some k => some ⟨st, c, k⟩
    | _, _, _ => none

/-! ## Responses (30_encoding.md R66) -/

/-- The status byte, and the two bytes InitError adds. -/
def Status.bytes : Status → List Byte
  | .ok => [0x00]
  | .busError .nack => [0x01]
  | .busError .timeout => [0x02]
  | .initError step cause => [0x03, BitVec.ofNat 8 step.val, BitVec.ofNat 8 (causeCode cause)]
  | .illegalRequest => [0xFF]

/-- The 16 bytes of the presence bitmap: bit (a mod 8) of byte (a div 8) is address a. -/
def bitmapBytes (present : BitVec 128) : List Byte :=
  (List.range 16).map fun j => present.extractLsb' (8 * j) 8

/-- The response string: the status, then the bitmap where there is one. -/
def encodeResponse (r : Response) : List Byte :=
  r.status.bytes ++
    match r.present with
    | none => []
    | some b => bitmapBytes b

end Sys2Proof.Machine
end

