-- ==== Sys2Proof/Machine/Operands.lean ====
section
/-! DEFINITION. The values operations compute from their operands: wire bytes and frames (30_encoding.md R70–R78), pixel
geometry (20_memory.md R40), the init sequence's steps and the scan range. -/

namespace Sys2Proof.Machine

/-! ## Wire bytes -/

/-- AddrByte(addr) = (addr << 1) | W with W = 0 (30_encoding.md R71). PRESUMED (assumption log 11, unsafe): the value of W
is the spec's general knowledge. -/
def addrByte (addr : BusAddr) : Byte := (addr.zeroExtend 8 <<< 1) ||| 0x00#8

/-- The control byte that selects "command" (30_encoding.md R72). -/
def ctrlCmd : Byte := 0x00

/-- The control byte that selects "data/pixel" (30_encoding.md R72). -/
def ctrlData : Byte := 0x40

/-- LowColCmd(c) = 0x00 | (c & 0xF) (30_encoding.md R75). -/
def lowColCmd (c : Nat) : Byte := BitVec.ofNat 8 (0x00 ||| (c &&& 0xF))

/-- HighColCmd(c) = 0x10 | ((c >> 4) & 0xF) (30_encoding.md R76). -/
def highColCmd (c : Nat) : Byte := BitVec.ofNat 8 (0x10 ||| ((c >>> 4) &&& 0xF))

/-- PageCmd(p) = 0xB0 | (p & 0xF) (30_encoding.md R77). -/
def pageCmd (p : Nat) : Byte := BitVec.ofNat 8 (0xB0 ||| (p &&& 0xF))

/-- Page p's addressing triplet: low column, high column, page (44_flush.md R200, R204). -/
def addressingTriplet (p : Nat) : List Byte := [lowColCmd colOffset, highColCmd colOffset, pageCmd p]

/-! ## Frames -/

/-- WriteFrame(addr, ctrl, payload) (30_encoding.md R70). -/
def writeFrame (addr : BusAddr) (ctrl : Byte) (payload : List Byte) : Frame :=
  [.start, .byte (addrByte addr), .byte ctrl] ++ payload.map .byte ++ [.stop]

/-- ProbeFrame(addr) (30_encoding.md R73). -/
def probeFrame (addr : BusAddr) : Frame := [.start, .byte (addrByte addr), .stop]

/-! ## Pixels (20_memory.md R40) -/

/-- The byte of a pixel: page(y) * WIDTH + x. -/
def pixelIndex (x y : Nat) : Nat := y / 8 * width + x

/-- The bit of a pixel in its byte: y mod 8. -/
def pixelBit (y : Nat) : Nat := y % 8

/-- The 8-bit mask of a pixel, one bit set (42_framebuffer.md R160). -/
def pixelMask (y : Nat) : Byte := 1#8 <<< pixelBit y

/-- The byte with the pixel's bit set or cleared (42_framebuffer.md R160). -/
def packPixel (v : Byte) (y : Nat) (on : Bool) : Byte :=
  if on then v ||| pixelMask y else v &&& ~~~(pixelMask y)

/-- Is the pixel on the panel? The check is on the integers, before any index is computed (42_framebuffer.md R161). -/
def onPanel (x y : Int) : Bool := 0 ≤ x && x < width && 0 ≤ y && y < height

/-! ## The sequences -/

/-- The init steps with their numbers 1..18 (30_encoding.md R80, 41_panel_controller.md R134). -/
def initSteps (p : Params) : List (StepNo × List Byte) :=
  ((List.range 18).map fun k => Fin.ofNat 19 (k + 1)).zip p.initTable

/-- The addresses SCAN probes: SCAN_LO, ..., SCAN_HI, ascending (40_bus_transport.md R108). -/
def scanRange (p : Params) : List BusAddr :=
  (List.range' p.scanLo.toNat (p.scanHi.toNat + 1 - p.scanLo.toNat)).map (BitVec.ofNat 7)

/-- The pages FLUSH sends, in order (44_flush.md R200). -/
def pageRange : List Nat := List.range pages

/-- present[a] <- 1 (40_bus_transport.md R108). -/
def markPresent (present : BitVec 128) (a : BusAddr) : BitVec 128 := present ||| (1#128 <<< a.toNat)

end Sys2Proof.Machine
end

