-- ==== Sys2Proof/Machine/Ops.lean ====
section
/-! DEFINITION. The named operations over the framebuffer, the frame in flight, the bus, the response port and
INIT_STATE. The block has no trap mechanism (60_exceptions.md R240): what other machines do by taking an exception is here
`respond`, which ends an operation with its status, and `initFailed`, which latches a failed INIT. -/

namespace Sys2Proof.Machine

/-! ## Configuration -/

/-- The parameters of the build. -/
def State.params (s : State) : Params := s.cfg.val

/-! ## The framebuffer -/

/-- What a framebuffer byte that is not listed reads as: the reset value 0x00 (70_reset_and_hazards.md R271; assumption log 6). -/
def unlistedByte : Byte := 0x00

/-- Addresses strictly rising from `from`, inside the index space, and no listed byte equal to `unlistedByte`. -/
def Memory.wfFrom (lo : Nat) : Memory → Bool
  | [] => true
  | (i, v) :: rest => decide (lo ≤ i) && decide (i < fbBytes) && (v != unlistedByte) && Memory.wfFrom (i + 1) rest

/-- The canonical form. -/
def Memory.wf (m : Memory) : Bool := Memory.wfFrom 0 m

/-- The byte at an index. -/
def Memory.read (m : Memory) (i : Nat) : Byte :=
  match m with
  | [] => unlistedByte
  | (j, v) :: rest => if i = j then v else Memory.read rest i

/-- The memory with one byte replaced, in canonical form again. -/
def Memory.write (m : Memory) (i : Nat) (v : Byte) : Memory :=
  match m with
  | [] => if v = unlistedByte then [] else [(i, v)]
  | (j, w) :: rest =>
    if i < j then (if v = unlistedByte then (j, w) :: rest else (i, v) :: (j, w) :: rest)
    else if i = j then (if v = unlistedByte then rest else (i, v) :: rest)
    else (j, w) :: Memory.write rest i v

/-- Consecutive bytes replaced, the first at index `i`. -/
def Memory.writeAll (m : Memory) (i : Nat) : List Byte → Memory
  | [] => m
  | v :: vs => Memory.writeAll (Memory.write m i v) (i + 1) vs

/-- The framebuffer with every byte 0x00. -/
def Memory.cleared : Memory := []

/-- lit(x, y) (20_memory.md R40). -/
def lit (m : Memory) (x y : Nat) : Bool := (m.read (pixelIndex x y)).getLsbD (pixelBit y)

/-- MemRead(addr, n): n consecutive bytes (00_scope.md R10). An access outside 0..359 faults; no operation makes one
(20_memory.md R41; assumption log 7). -/
def memRead (s : State) (addr n : Nat) : Host.Outcome (List Byte) Fault Refusal :=
  if addr + n ≤ fbBytes then .next ((List.range n).map fun j => s.fb.read (addr + j))
  else .fault (.framebufferIndex addr n)

/-- MemWrite(addr, n, v): n consecutive bytes (00_scope.md R10), with `memRead`'s check. -/
def memWrite (s : State) (addr : Nat) (vs : List Byte) : Host.Outcome State Fault Refusal :=
  if addr + vs.length ≤ fbBytes then .next { s with fb := s.fb.writeAll addr vs }
  else .fault (.framebufferIndex addr vs.length)

/-- Go on with the value of a step that answered one; a fault or a refusal ends the operation. -/
def andThen {α β : Type} (o : Host.Outcome α Fault Refusal) (f : α → Host.Outcome β Fault Refusal) :
    Host.Outcome β Fault Refusal :=
  match o with
  | .next a => f a
  | .fault r => .fault r
  | .refused r => .refused r

/-! ## The bus environment (40_bus_transport.md R101) -/

/-- The outcome the n-th frame from now gets (n from 0): the script's, and a free value behind its end. -/
def BusEnv.peek (e : BusEnv) (n : Nat) : BusOutcome := (e.script[n]?).getD (Config.freeOutcome (e.drawn + n))

/-- The environment after n more outcomes. -/
def BusEnv.advance (e : BusEnv) (n : Nat) : BusEnv := ⟨e.script.drop n, e.drawn + n⟩

/-! ## The frame in flight (10_state.md R28, 20_memory.md R44) -/

/-- The frame in flight replaced. -/
def State.withFrame (s : State) (f : Frame) : State := { s with seq := { s.seq with frame := f } }

/-- S: a new frame. -/
def beginFrame (s : State) : State := s.withFrame [.start]

/-- Bytes put behind what the frame in flight holds, in order. -/
def composeBytes (vs : List Byte) (s : State) : State := s.withFrame (s.seq.frame ++ vs.map .byte)

/-- One byte put behind what the frame in flight holds. -/
def composeByte (v : Byte) (s : State) : State := composeBytes [v] s

/-- P: the frame is whole. -/
def endFrame (s : State) : State := s.withFrame (s.seq.frame ++ [.stop])

/-- Submit(frame, kind) of the frame in flight (00_scope.md R11): one outcome, one entry of LOG; nothing stays in
flight. -/
def submit (kind : TxnKind) (s : State) : State × Option Cause :=
  ({ s with
      log := s.log ++ [⟨s.seq.frame, kind, s.bus.peek 0⟩]
      bus := s.bus.advance 1
      seq := { s.seq with frame := [] } },
    causeOf (s.bus.peek 0))

/-! ## Transactions -/

/-- The body of WRITE (40_bus_transport.md R100): a zero-length payload is a success and submits nothing; else one write
frame, address byte, control byte, payload in order. The cause of the failure, if any, goes back unchanged (R103). -/
def writeTxn (addr : BusAddr) (ctrl : Byte) (payload : List Byte) (s : State) : State × Option Cause :=
  if payload = [] then (s, none)
  else submit .write (endFrame (composeBytes payload (composeByte ctrl (composeByte (addrByte addr) (beginFrame s)))))

/-- The body of PROBE (40_bus_transport.md R104): the address-only frame. -/
def probeTxn (addr : BusAddr) (s : State) : State × Option Cause :=
  submit .probe (endFrame (composeByte (addrByte addr) (beginFrame s)))

/-- A framed send to the panel (41_panel_controller.md R130, R132), without the latch check. -/
def panelSend (ctrl : Byte) (payload : List Byte) (s : State) : State × Option Cause :=
  writeTxn s.params.panelAddr ctrl payload s

/-- Each byte as a send of its own, stopping at the first failure (44_flush.md R200, SEPARATE). -/
def panelSendEach (ctrl : Byte) : List Byte → State → State × Option Cause
  | [], s => (s, none)
  | v :: vs, s =>
    match panelSend ctrl [v] s with
    | (s1, none) => panelSendEach ctrl vs s1
    | (s1, some c) => (s1, some c)

/-! ## Sequencer counters (10_state.md R28) -/

/-- INIT is at step k. -/
def State.atStep (s : State) (k : Nat) : State := { s with seq := { s.seq with k := some k } }

/-- FLUSH is at page p. -/
def State.atPage (s : State) (p : Nat) : State := { s with seq := { s.seq with p := some p } }

/-- SCAN is at address a. -/
def State.atAddr (s : State) (a : Nat) : State := { s with seq := { s.seq with a := some a } }

/-! ## Ending an operation (00_scope.md R12, 60_exceptions.md R240, R245) -/

/-- The operation ends with a response; no counter and no frame stays live (10_state.md R28). -/
def respondWith (r : Response) (s : State) : State :=
  { s with responses := s.responses ++ [r], seq := .idle }

/-- The operation ends with a status and no result bytes. -/
def respond (st : Status) (s : State) : State := respondWith ⟨st, none⟩ s

/-- The operation ends with the status of its transaction: OK, or the BusError unchanged. -/
def respondTxn (r : State × Option Cause) : State := respond (Status.ofCause r.2) r.1

/-! ## INIT_STATE (10_state.md R24, R26) -/

/-- The FAILED latch (41_panel_controller.md R131): the status that ends the operation, where the latch is set. -/
def latchCheck (s : State) : Option Status :=
  if s.initState.state = .failed then some (.initError s.initState.failStep s.initState.failCause) else none

/-- Init step k failed with cause c: the latch is set and INIT ends with InitError (41_panel_controller.md R136). -/
def initFailed (k : StepNo) (c : Cause) (s : State) : State :=
  respond (.initError k (some c)) { s with initState := ⟨.failed, some c, k⟩ }

/-- The init sequence succeeded (41_panel_controller.md R136). -/
def initReady (s : State) : State := respond .ok { s with initState := ⟨.ready, none, 0⟩ }

/-! ## Reset and the host port -/

/-- The reset event (70_reset_and_hazards.md R270): FB, INIT_STATE, LOG and the sequencer; nothing else. -/
def resetBlock (s : State) : State :=
  { s with fb := Memory.cleared, initState := .reset, log := [], seq := .idle }

/-- The next input of the host, taken off the port. -/
def takeInput (s : State) : Option (HostInput × State) :=
  match s.inputs with
  | [] => none
  | i :: rest => some (i, { s with inputs := rest })

end Sys2Proof.Machine
end

