-- ==== Sys2Proof/Machine/Flush.lean ====
section
/-! DEFINITION. The Flush Protocol: FLUSH (44_flush.md). -/

namespace Sys2Proof.Machine

/-- The pages with their 72 bytes each, read in order "as FB stands when FLUSH starts"; FLUSH writes no byte, so they are
the bytes at each page's send (44_flush.md R201). -/
def readPages (s : State) : List Nat → Host.Outcome (List (Nat × List Byte)) Fault Refusal
  | [] => .next []
  | p :: rest =>
    andThen (memRead s (p * width) width) fun bytes =>
      andThen (readPages s rest) fun later => .next ((p, bytes) :: later)

/-- Page p's addressing: one command send of three bytes under TRIPLET, three of one byte under SEPARATE (44_flush.md R200). -/
def sendAddressing (p : Nat) (s : State) : State × Option Cause :=
  match s.params.flushFraming with
  | .triplet => panelSend ctrlCmd (addressingTriplet p) s
  | .separate => panelSendEach ctrlCmd (addressingTriplet p) s

/-- One page: its addressing, then its bytes as a data send (44_flush.md R200). -/
def sendPage (p : Nat) (bytes : List Byte) (s : State) : State × Option Cause :=
  match sendAddressing p (s.atPage p) with
  | (s1, some c) => (s1, some c)
  | (s1, none) => panelSend ctrlData bytes s1

/-- The pages in order, stopping at the first failed send (44_flush.md R200, R203). -/
def sendPages : List (Nat × List Byte) → State → State × Option Cause
  | [], s => (s, none)
  | (p, bytes) :: rest, s =>
    match sendPage p bytes s with
    | (s1, some c) => (s1, some c)
    | (s1, none) => sendPages rest s1

/-- FLUSH (44_flush.md R200): the latch check, then the pages. -/
def execFlush (s : State) : Host.Outcome State Fault Refusal :=
  match latchCheck s with
  | some st => .next (respond st s)
  | none => andThen (readPages s pageRange) fun ps => .next (respondTxn (sendPages ps s))

end Sys2Proof.Machine
end

