-- ==== Sys2Proof/Machine/Framebuffer.lean ====
section
/-! DEFINITION. The Framebuffer's operations: SET_PIXEL, CLEAR (42_framebuffer.md). Neither reaches the bus nor checks the
latch. -/

namespace Sys2Proof.Machine

/-- Set or clear the pixel at integer coordinates known to be on the panel: a read-modify-write of one byte (20_memory.md R48). -/
def storePixel (x y : Nat) (on : Bool) (s : State) : Host.Outcome State Fault Refusal :=
  andThen (memRead s (pixelIndex x y) 1) fun vs =>
    memWrite s (pixelIndex x y) (vs.map fun v => packPixel v y on)

/-- SET_PIXEL (42_framebuffer.md R160). -/
def execSetPixel (x y : Coord) (on : Bool) (s : State) : Host.Outcome State Fault Refusal :=
  if onPanel x.toInt y.toInt then
    andThen (storePixel x.toInt.toNat y.toInt.toNat on s) fun s1 => .next (respond .ok s1)
  else .next (respond .ok s)

/-- CLEAR (42_framebuffer.md R165): every byte 0x00. -/
def execClear (s : State) : Host.Outcome State Fault Refusal :=
  .next (respond .ok { s with fb := Memory.cleared })

end Sys2Proof.Machine
end

