-- ==== Sys2Proof/Machine/Panel.lean ====
section
/-! DEFINITION. The Panel Controller's operations: SEND_CMD, SEND_DATA, INIT (41_panel_controller.md). -/

namespace Sys2Proof.Machine

/-- SEND_CMD (41_panel_controller.md R130): the latch check, then a command-framed send. -/
def execSendCmd (bytes : List Byte) (s : State) : Host.Outcome State Fault Refusal :=
  match latchCheck s with
  | some st => .next (respond st s)
  | none => .next (respondTxn (panelSend ctrlCmd bytes s))

/-- SEND_DATA (41_panel_controller.md R132): the latch check, then a data-framed send. -/
def execSendData (bytes : List Byte) (s : State) : Host.Outcome State Fault Refusal :=
  match latchCheck s with
  | some st => .next (respond st s)
  | none => .next (respondTxn (panelSend ctrlData bytes s))

/-- INIT's loop under PER_STEP (41_panel_controller.md R136): one command send per step; the first failure latches. -/
def initLoop : List (StepNo × List Byte) → State → State
  | [], s => initReady s
  | (k, bytes) :: rest, s =>
    match panelSend ctrlCmd bytes (s.atStep k.val) with
    | (s1, none) => initLoop rest s1
    | (s1, some c) => initFailed k c s1

/-- INIT under SINGLE (41_panel_controller.md R136): one command send of all steps; a failure counts as step 1. -/
def initSingle (s : State) : State :=
  match panelSend ctrlCmd s.params.initTable.flatten (s.atStep 1) with
  | (s1, none) => initReady s1
  | (s1, some c) => initFailed 1 c s1

/-- INIT (41_panel_controller.md R136). -/
def execInit (s : State) : Host.Outcome State Fault Refusal :=
  match latchCheck s with
  | some st => .next (respond st s)
  | none =>
    match s.params.initFraming with
    | .perStep => .next (initLoop (initSteps s.params) s)
    | .single => .next (initSingle s)

end Sys2Proof.Machine
end

