-- ==== Sys2Proof/Machine/Transport.lean ====
section
/-! DEFINITION. The Bus Transport's operations: WRITE, PROBE, SCAN (40_bus_transport.md). None checks the latch (R131). -/

namespace Sys2Proof.Machine

/-- WRITE (40_bus_transport.md R100). -/
def execWrite (addr : BusAddr) (ctrl : Byte) (payload : List Byte) (s : State) : Host.Outcome State Fault Refusal :=
  .next (respondTxn (writeTxn addr ctrl payload s))

/-- PROBE (40_bus_transport.md R104). -/
def execProbe (addr : BusAddr) (s : State) : Host.Outcome State Fault Refusal :=
  .next (respondTxn (probeTxn addr s))

/-- SCAN's loop: one probe per address; ACK sets its bit, NACK and TIMEOUT both mean "not present" (R108). -/
def scanLoop : List BusAddr → BitVec 128 → State → BitVec 128 × State
  | [], present, s => (present, s)
  | a :: rest, present, s =>
    match probeTxn a (s.atAddr a.toNat) with
    | (s1, none) => scanLoop rest (markPresent present a) s1
    | (s1, some _) => scanLoop rest present s1

/-- SCAN (40_bus_transport.md R108): always OK, with the presence bitmap. -/
def execScan (s : State) : Host.Outcome State Fault Refusal :=
  let r := scanLoop (scanRange s.params) 0 s
  .next (respondWith ⟨.ok, some r.1⟩ r.2)

end Sys2Proof.Machine
end

