-- ==== Sys2Proof/Machine/Wire.lean ====
section
/-! DEFINITION. The wire-byte rows of the opcode table (30_encoding.md R71, R72, R75–R77). Each is the framer's step of
composing that byte: it goes behind what the frame in flight holds, in list order (20_memory.md R44), and nothing else
changes. They are the steps `writeTxn` and `probeTxn` are made of, not requests (assumption log 3, DESIGN CHOICE). -/

namespace Sys2Proof.Machine

/-- wire:ADDR_BYTE: the address byte of address a (30_encoding.md R71). -/
def execWireAddrByte (a : BusAddr) (s : State) : Host.Outcome State Fault Refusal := .next (composeByte (addrByte a) s)

/-- wire:CTRL_CMD: the command control byte (30_encoding.md R72). -/
def execWireCtrlCmd (s : State) : Host.Outcome State Fault Refusal := .next (composeByte ctrlCmd s)

/-- wire:CTRL_DATA: the data control byte (30_encoding.md R72). -/
def execWireCtrlData (s : State) : Host.Outcome State Fault Refusal := .next (composeByte ctrlData s)

/-- wire:LOW_COL: set low column nibble l (30_encoding.md R75). -/
def execWireLowCol (l : BitVec 4) (s : State) : Host.Outcome State Fault Refusal :=
  .next (composeByte (lowColCmd l.toNat) s)

/-- wire:HIGH_COL: set high column nibble h, the nibble of a column h · 16 (30_encoding.md R76). -/
def execWireHighCol (h : BitVec 4) (s : State) : Host.Outcome State Fault Refusal :=
  .next (composeByte (highColCmd (h.toNat * 16)) s)

/-- wire:PAGE: set page address p (30_encoding.md R77). -/
def execWirePage (p : BitVec 4) (s : State) : Host.Outcome State Fault Refusal :=
  .next (composeByte (pageCmd p.toNat) s)

end Sys2Proof.Machine
end

