-- ==== Sys2Proof/Machine/Dispatch.lean ====
section
/-! DEFINITION. One arm per constructor of Instr. -/

namespace Sys2Proof.Machine

def exec (i : Instr) (s : State) : Host.Outcome State Fault Refusal :=
  match i with
  -- 40_bus_transport.md
  | .write addr ctrl payload => Sys2Proof.Machine.execWrite addr ctrl payload s
  | .probe addr => Sys2Proof.Machine.execProbe addr s
  | .scan => Sys2Proof.Machine.execScan s
  -- 41_panel_controller.md
  | .sendCmd bytes => Sys2Proof.Machine.execSendCmd bytes s
  | .sendData bytes => Sys2Proof.Machine.execSendData bytes s
  | .init => Sys2Proof.Machine.execInit s
  -- 42_framebuffer.md
  | .setPixel x y on => Sys2Proof.Machine.execSetPixel x y on s
  | .clear => Sys2Proof.Machine.execClear s
  -- 44_flush.md
  | .flush => Sys2Proof.Machine.execFlush s
  -- 30_encoding.md, wire bytes
  | .wireAddrByte a => Sys2Proof.Machine.execWireAddrByte a s
  | .wireCtrlCmd => Sys2Proof.Machine.execWireCtrlCmd s
  | .wireCtrlData => Sys2Proof.Machine.execWireCtrlData s
  | .wireLowCol l => Sys2Proof.Machine.execWireLowCol l s
  | .wireHighCol h => Sys2Proof.Machine.execWireHighCol h s
  | .wirePage p => Sys2Proof.Machine.execWirePage p s

end Sys2Proof.Machine
end

