-- ==== Sys2Proof/Machine/Step.lean ====
section
/-! DEFINITION. One step of the block: the host's next input, finished before the next one is taken (00_scope.md R2, R15). -/

namespace Sys2Proof.Machine

/-- One step. A request is decoded and run to its response; an illegal request only gets its status (30_encoding.md R65,
60_exceptions.md R243); the reset signal resets the block (70_reset_and_hazards.md R270); with no input outstanding the
block waits (60_exceptions.md R245; assumption log 1). -/
def step (s : State) : Host.Outcome State Fault Refusal :=
  match takeInput s with
  | none => .next s
  | some (.reset, s1) => .next (resetBlock s1)
  | some (.request bytes, s1) =>
    match decode s1.params.maxPayload bytes with
    | .ok i => exec i s1
    | .error _ => .next (respond .illegalRequest s1)

/-- The state with the request whose bits are `w` as the host's next input: the port is where the block gets its next
operation (30_encoding.md R60; assumption log 16). -/
def State.withFetchWord (s : State) (nbits w : Nat) : State :=
  { s with inputs := .request (tableBytes nbits w) :: s.inputs }

end Sys2Proof.Machine
end

