-- ==== Sys2Proof/Machine/Assembly.lean ====
section
/-! DEFINITION. The written form of requests and frames (30_encoding.md R67). -/

namespace Sys2Proof.Machine

/-- A hexadecimal digit. -/
def hexDigit (n : Nat) : Char := if n < 10 then Char.ofNat (48 + n) else Char.ofNat (55 + n)

/-- A byte as two hexadecimal digits. -/
def hexByte (v : Byte) : String := String.ofList [hexDigit (v.toNat / 16), hexDigit (v.toNat % 16)]

/-- A byte as a hexadecimal numeral. -/
def hexNumeral (v : Byte) : String := "0x" ++ hexByte v

/-- A byte list in brackets. -/
def bracketed (vs : List Byte) : String := "[" ++ String.intercalate ", " (vs.map hexNumeral) ++ "]"

/-- A request as one line `MNEMONIC operands`; a wire byte, which is no request, as its two digits in a frame. -/
def assemblyLine : Instr → String
  | .write addr ctrl payload =>
    "WRITE " ++ hexNumeral (addr.zeroExtend 8) ++ ", " ++ hexNumeral ctrl ++ ", " ++ bracketed payload
  | .probe addr => "PROBE " ++ hexNumeral (addr.zeroExtend 8)
  | .scan => "SCAN"
  | .sendCmd bytes => "SEND_CMD " ++ bracketed bytes
  | .sendData bytes => "SEND_DATA " ++ bracketed bytes
  | .init => "INIT"
  | .setPixel x y on =>
    "SET_PIXEL " ++ toString x.toInt ++ ", " ++ toString y.toInt ++ ", " ++ (if on then "1" else "0")
  | .clear => "CLEAR"
  | .flush => "FLUSH"
  | .wireAddrByte a => hexByte (a ++ 0#1)
  | .wireCtrlCmd => hexByte 0x00
  | .wireCtrlData => hexByte 0x40
  | .wireLowCol l => hexByte (0x0#4 ++ l)
  | .wireHighCol h => hexByte (0x1#4 ++ h)
  | .wirePage p => hexByte (0xB#4 ++ p)

/-- A symbol of a written frame. -/
def symbolText : Symbol → String
  | .start => "S"
  | .byte v => hexByte v
  | .stop => "P"

/-- A frame as a symbol list: `S 78 00 AF P`. -/
def frameText (f : Frame) : String := String.intercalate " " (f.map symbolText)

end Sys2Proof.Machine
end

