-- ==== Sys2Proof/Machine/GlyphClient.lean ====
section
/-! DEFINITION. The Glyph Renderer, a host-side client outside the block (43_glyph_renderer.md): each procedure is the list
of SET_PIXEL requests it issues, in order. It holds no state; FONT and GLYPH_BIT_ORDER are arguments. -/

namespace Sys2Proof.Machine

/-- GlyphBit(c, r, col) (43_glyph_renderer.md R181); row 0 is the top row, column 0 the left one. -/
def glyphBit (font : Font) (order : GlyphBitOrder) (c : Byte) (r col : Nat) : Bool :=
  match order with
  | .msbLeft => (font c (Fin.ofNat 8 r)).getLsbD (7 - col)
  | .lsbLeft => (font c (Fin.ofNat 8 r)).getLsbD col

/-- Can the request port carry this coordinate (00_scope.md R8)? -/
def portCarries (v : Int) : Bool := -32768 ≤ v && v ≤ 32767

/-- The request SET_PIXEL(x, y, on) at integer coordinates. One the port cannot carry is not issued: "values outside
cannot be requested" (92_eei_decisions.md D4); SET_PIXEL would clip it (assumption log 13, DESIGN CHOICE). -/
def pixelRequest (x y : Int) (on : Bool) : List Instr :=
  if portCarries x && portCarries y then [.setPixel (BitVec.ofInt 16 x) (BitVec.ofInt 16 y) on] else []

/-- One row of a glyph, left to right. -/
def drawGlyphRow (font : Font) (order : GlyphBitOrder) (x y : Int) (c : Byte) (r : Nat) : List Instr :=
  (List.range 8).flatMap fun (col : Nat) => pixelRequest (x + col) (y + r) (glyphBit font order c r col)

/-- drawGlyph(x, y, c) (43_glyph_renderer.md R182): 64 requests in row-major order, opaque. -/
def drawGlyph (font : Font) (order : GlyphBitOrder) (x y : Int) (c : Byte) : List Instr :=
  (List.range 8).flatMap fun (r : Nat) => drawGlyphRow font order x y c r

/-- drawString(x, y, text) (43_glyph_renderer.md R183): stops before a glyph with cursor > WIDTH - 8. -/
def drawString (font : Font) (order : GlyphBitOrder) (x y : Int) : List Byte → List Instr
  | [] => []
  | c :: rest =>
    if x > width - 8 then [] else drawGlyph font order x y c ++ drawString font order (x + 8) y rest

/-- The start of a centered string: (WIDTH - 8·len) div 2, at least 0 (43_glyph_renderer.md R184). -/
def centeredStart (len : Nat) : Int :=
  let x := ((width : Int) - 8 * len) / 2
  if x < 0 then 0 else x

/-- drawStringCentered(y, text) (43_glyph_renderer.md R184). -/
def drawStringCentered (font : Font) (order : GlyphBitOrder) (y : Int) (text : List Byte) : List Instr :=
  drawString font order (centeredStart text.length) y text

end Sys2Proof.Machine
end

