-- ==== Sys2Proof/Machine/SerialClient.lean ====
section
/-! DEFINITION. The serial line collaborator, a client outside the block (45_serial_line.md): its line buffer, its events and
its step. Its rendering is an event, not a SET_PIXEL. -/

namespace Sys2Proof.Machine

/-- LINE_CAP (45_serial_line.md R220). -/
abbrev lineCap : Nat := 10

/-- What the collaborator puts out (45_serial_line.md R220). -/
inductive SerialEvent where
  | render (line : List Byte)
  | echo (line : List Byte)
deriving DecidableEq, Repr

/-- Its state: the line buffer LB (45_serial_line.md R220). -/
structure SerialLine where
  lb : List Byte
deriving DecidableEq, Repr

/-- A finished line, rendered and echoed. -/
def lineEvents (line : List Byte) : List SerialEvent := [.render line, .echo line]

/-- The bytes of "READY". -/
def readyLine : List Byte := [0x52, 0x45, 0x41, 0x44, 0x59]

/-- Start-up (45_serial_line.md R221): an empty buffer, and READY rendered and echoed once. -/
def serialStart : SerialLine × List SerialEvent := (⟨[]⟩, lineEvents readyLine)

/-- Is the byte one of the two terminators? -/
def isTerminator (b : Byte) : Bool := b == 0x0A || b == 0x0D

/-- OnByte(b) (45_serial_line.md R222). -/
def onByte (emptyLine : EmptyLine) (s : SerialLine) (b : Byte) : SerialLine × List SerialEvent :=
  if isTerminator b then
    (⟨[]⟩, if s.lb ≠ [] ∨ emptyLine = .emit then lineEvents s.lb else [])
  else if s.lb.length < lineCap then (⟨s.lb ++ [b]⟩, [])
  else (s, [])

/-- The bytes of an input in order, with the events they give. -/
def onBytes (emptyLine : EmptyLine) (s : SerialLine) : List Byte → SerialLine × List SerialEvent
  | [] => (s, [])
  | b :: rest =>
    let r := onByte emptyLine s b
    let q := onBytes emptyLine r.1 rest
    (q.1, r.2 ++ q.2)

/-- A run of the collaborator on an input: its start-up, then the input's bytes (45_serial_line.md R221, R222). -/
def serialRun (emptyLine : EmptyLine) (input : List Byte) : SerialLine × List SerialEvent :=
  let r := onBytes emptyLine serialStart.1 input
  (r.1, serialStart.2 ++ r.2)

end Sys2Proof.Machine
end

