-- ==== Sys2Proof/Safety.lean ====
section
/-! DEFINITION. The terms claims use: the observation of a run (00_scope.md R16), runs, the frames a sequence submits, and
the invariant every step keeps. -/

namespace Sys2Proof.Machine

/-! ## Observation (00_scope.md R16) -/

/-- What a run shows: the statuses returned, the framebuffer, INIT_STATE, LOG. -/
structure Observation where
  statuses : List Status
  fb : List Byte
  initState : BitVec 16
  log : List LogEntry
deriving DecidableEq, Repr

/-- The observation of a state. -/
def observe (s : State) : Observation where
  statuses := s.responses.map (·.status)
  fb := (List.range fbBytes).map s.fb.read
  initState := s.initState.toWord
  log := s.log

/-- Run every outstanding input of the host; the run ends when they are exhausted (00_scope.md R16). -/
def runInputs (s : State) : Host.Outcome State Fault Refusal := Host.Core.run core s.inputs.length s

/-- Run operations one after another, as a client that issues each after the previous one has returned. -/
def execAll : List Instr → State → Host.Outcome State Fault Refusal
  | [], s => .next s
  | i :: rest, s => andThen (exec i s) (execAll rest)

/-! ## The frames of a sequence -/

/-- The frames INIT submits when every step is acknowledged (30_encoding.md R82). -/
def initFrames (p : Params) : List Frame :=
  match p.initFraming with
  | .perStep => p.initTable.map (writeFrame p.panelAddr ctrlCmd)
  | .single => [writeFrame p.panelAddr ctrlCmd p.initTable.flatten]

/-- The command frames of page n's addressing (44_flush.md R200). -/
def addressingFrames (p : Params) (n : Nat) : List Frame :=
  match p.flushFraming with
  | .triplet => [writeFrame p.panelAddr ctrlCmd [lowColCmd colOffset, highColCmd colOffset, pageCmd n]]
  | .separate =>
    [writeFrame p.panelAddr ctrlCmd [lowColCmd colOffset], writeFrame p.panelAddr ctrlCmd [highColCmd colOffset],
      writeFrame p.panelAddr ctrlCmd [pageCmd n]]

/-- The data frame of page n: its 72 bytes (44_flush.md R200, R201). -/
def dataFrame (p : Params) (fb : Memory) (n : Nat) : Frame :=
  writeFrame p.panelAddr ctrlData ((List.range width).map fun j => fb.read (n * width + j))

/-- The frames FLUSH submits when every one is acknowledged: per page its addressing, then its data (44_flush.md R200). -/
def flushFrames (p : Params) (fb : Memory) : List Frame :=
  [0, 1, 2, 3, 4].flatMap fun n => addressingFrames p n ++ [dataFrame p fb n]

/-- The status of a transaction by its outcome (40_bus_transport.md R100). -/
def outcomeStatus : BusOutcome → Status
  | .ack => .ok
  | .nack => .busError .nack
  | .timeout => .busError .timeout

/-- The entries LOG gains for write frames that are all acknowledged. -/
def ackedEntries (fs : List Frame) : List LogEntry := fs.map fun f => ⟨f, .write, .ack⟩

/-- The next `n` frames are all acknowledged. -/
def AllAcked (e : BusEnv) (n : Nat) : Prop := ∀ j, j < n → e.peek j = .ack

/-- Of the next frames, numbered from 0, frame `n` is the first that is not acknowledged, with cause `c`. -/
def FirstFailure (e : BusEnv) (n : Nat) (c : Cause) : Prop := AllAcked e n ∧ causeOf (e.peek n) = some c

/-- The probe entries of a scan with their outcomes, in order (40_bus_transport.md R108). -/
def scanEntries (e : BusEnv) (addrs : List BusAddr) : List LogEntry :=
  addrs.mapIdx fun j a => ⟨probeFrame a, .probe, e.peek j⟩

/-! ## The invariant -/

/-- An entry of LOG is a frame the block can compose: a write frame with at least one payload byte (30_encoding.md R70), or
a probe frame (R73). -/
def LogEntry.WellFramed (e : LogEntry) : Prop :=
  match e.kind with
  | .write => ∃ addr ctrl payload, payload ≠ [] ∧ e.frame = writeFrame addr ctrl payload
  | .probe => ∃ addr, e.frame = probeFrame addr

/-- The fields of INIT_STATE agree: a cause and a step number with FAILED, and only then (10_state.md R24). -/
def InitState.Coherent (r : InitState) : Prop :=
  match r.state with
  | .uninit => r.failCause = none ∧ r.failStep = 0
  | .ready => r.failCause = none ∧ r.failStep = 0
  | .failed => r.failCause ≠ none ∧ r.failStep ≠ 0

/-- A response 30_encoding.md R66 can produce: InitError with a step 1..18 and a cause; a bitmap only with OK. -/
def Response.Producible (r : Response) : Prop :=
  (∀ k c, r.status = .initError k c → k ≠ 0 ∧ c ≠ none) ∧ (r.present ≠ none → r.status = .ok)

/-- What every reachable state between operations satisfies. -/
structure State.Inv (s : State) : Prop where
  /-- The framebuffer is in canonical form and inside its 360 bytes. -/
  memory : s.fb.wf = true
  /-- INIT_STATE's fields agree. -/
  initState : InitState.Coherent s.initState
  /-- No counter and no frame is live (10_state.md R28). -/
  idle : s.seq = .idle
  /-- Every entry of LOG is a frame the block composes. -/
  log : ∀ e ∈ s.log, LogEntry.WellFramed e
  /-- Every response returned is one of R66. -/
  responses : ∀ r ∈ s.responses, Response.Producible r

end Sys2Proof.Machine
end

