-- ==== Sys2Proof/Certificates/Slice0/Obligations.lean ====
section
/-! DEFINITION. The statements for the provers, each from the rules of spec/ its docstring names. Where a docstring says
"the model's choice", the clause rests on the assumption log entry it names. Every statement ranges over every state: every
configuration, every log and every sequence of bus outcomes. -/

open Sys2Proof Sys2Proof.Machine

/-! ## Encodings -/

/-- 30_encoding.md section 1: the request decoder gives back every well-formed operation it is given the encoding of, with
every operand. -/
def Obligations.DecodeOfEncodeIsIdentity : Prop :=
  ∀ (maxPayload : Nat) (i : Instr), i.isOperation = true → i.wellFormed maxPayload = true →
    decode maxPayload (encode i) = .ok i

/-- 30_encoding.md section 1 (R61 to R65): a request string that decodes is the encoding of a well-formed operation and of
nothing else, so every other string is illegal; that a string of no bytes is so too is DEDUCED (assumption log 9). -/
def Obligations.DecodedRequestIsItsOwnEncoding : Prop :=
  ∀ (maxPayload : Nat) (bytes : List Byte) (i : Instr), decode maxPayload bytes = .ok i →
    i.isOperation = true ∧ i.wellFormed maxPayload = true ∧ encode i = bytes

/-- 30_encoding.md sections 2 and 3: a wire byte in its place of a frame is one wire pattern, and back. That the rows are read
by their place is the model's choice (assumption log 3); that the write bit is 0 is PRESUMED (log 11). -/
def Obligations.WireBytesDecodeInTheirPlace : Prop :=
  (∀ (i : Instr) (slot : WireSlot), i.wireSlot = some slot → ∃ v, encode i = [v] ∧ decodeWire slot v = some i) ∧
    ∀ (slot : WireSlot) (v : Byte) (i : Instr), decodeWire slot v = some i → i.wireSlot = some slot ∧ encode i = [v]

/-- 95_test_vectors.md V1, V5 to V10, V13, V16, V18, V20, V23: words written out from the spec decode as it says. -/
def Obligations.SpecWordsDecode : Prop :=
  decode 65535 [0x03] = .ok .scan ∧
    decode 65535 [0x02, 0x3C] = .ok (.probe 0x3C) ∧
    decode 65535 [0x01, 0x3C, 0x40, 0x01, 0x00, 0xFF] = .ok (.write 0x3C 0x40 [0xFF]) ∧
    decode 65535 [0x10, 0x02, 0x00, 0x81, 0x7F] = .ok (.sendCmd [0x81, 0x7F]) ∧
    decode 65535 [0x11, 0x00, 0x00] = .ok (.sendData []) ∧
    decode 65535 [0x12] = .ok .init ∧
    decode 65535 [0x20, 0x05, 0x00, 0x0A, 0x00, 0x01] = .ok (.setPixel 5 10 true) ∧
    decode 65535 [0x20, 0xFF, 0xFF, 0x00, 0x00, 0x01] = .ok (.setPixel (-1) 0 true) ∧
    decode 65535 [0x21] = .ok .clear ∧
    decode 65535 [0x30] = .ok .flush ∧
    decode 65535 [0x00] = .error .unassignedOp ∧
    decode 65535 [0x03, 0x00] = .error .wrongLength ∧
    decode 65535 [0x01, 0x3C, 0x00, 0x02, 0x00, 0xAE] = .error .wrongLength ∧
    decode 65535 [0x02, 0xBC] = .error .addressBit7 ∧
    decode 4 [0x10, 0x05, 0x00, 0xAE, 0xAE, 0xAE, 0xAE, 0xAE] = .error .payloadTooLong ∧
    decode 65535 [0x20, 0x05, 0x00, 0x0A, 0x00, 0x02] = .error .badOn

/-- 30_encoding.md R70: what a write frame holds, for every payload of at least one byte, and how many bytes and symbols. -/
def Obligations.WriteFrameHoldsItsBytesInOrder : Prop :=
  ∀ (addr : BusAddr) (ctrl : Byte) (payload : List Byte), payload ≠ [] →
    (writeFrame addr ctrl payload =
        [Symbol.start, .byte (addrByte addr), .byte ctrl] ++ payload.map Symbol.byte ++ [.stop]) ∧
      (writeFrame addr ctrl payload).length = payload.length + 4 ∧
      ((writeFrame addr ctrl payload).countP fun x => match x with | .byte _ => true | _ => false)
        = payload.length + 2 ∧
      (∀ a c s, exec (.write a c []) s = .next (respond .ok s) ∧ (respond .ok s).log = s.log)

/-- 30_encoding.md section 2, the address byte: bits [7:1] are the address and bit 0 is the write bit. That the write bit is 0
is the spec's general knowledge (93_implementation_defined.md G3; assumption log 11, PRESUMED). -/
def Obligations.AddressByteIsAddressAndWriteBit : Prop :=
  ∀ a : BusAddr, (addrByte a).extractLsb' 1 7 = a ∧ (addrByte a).getLsbD 0 = false

/-- 30_encoding.md R75, R76, R77: the three panel command bytes, for every column and every page number; for this hardware's
pages 0..4 the page byte is 0xB0 + p. -/
def Obligations.PanelCommandBytesHaveTheirPatterns : Prop :=
  ∀ n : Nat,
    (lowColCmd n = BitVec.ofNat 8 (0x00 ||| (n &&& 0xF)) ∧ lowColCmd n = 0x0#4 ++ BitVec.ofNat 4 n) ∧
      (highColCmd n = BitVec.ofNat 8 (0x10 ||| ((n >>> 4) &&& 0xF)) ∧
        highColCmd n = 0x1#4 ++ BitVec.ofNat 4 (n / 16)) ∧
      (pageCmd n = BitVec.ofNat 8 (0xB0 ||| (n &&& 0xF)) ∧ pageCmd n = 0xB#4 ++ BitVec.ofNat 4 n) ∧
      (n < 5 → pageCmd n = BitVec.ofNat 8 (0xB0 + n)) ∧ (highColCmd n = highColCmd (n % 256))

/-- 30_encoding.md section 1 (responses, the spec's decision D33): the bytes of every status, and of the presence bitmap: bit
(a mod 8) of byte (a div 8) is address a. The clause on an InitError without a cause is no row of the spec's table: such a status
can be written down because the register's cause field can be none, no run returns it, and its cause byte 0x00 is the model's
(assumption log 5, DEDUCED). -/
def Obligations.ResponseBytesCarryStatusAndBitmap : Prop :=
  (∀ st : Status, encodeResponse ⟨st, none⟩ =
      match st with
      | .ok => [0x00]
      | .busError .nack => [0x01]
      | .busError .timeout => [0x02]
      | .initError k none => [0x03, BitVec.ofNat 8 k.val, 0x00]
      | .initError k (some .nack) => [0x03, BitVec.ofNat 8 k.val, 0x01]
      | .initError k (some .timeout) => [0x03, BitVec.ofNat 8 k.val, 0x02]
      | .illegalRequest => [0xFF]) ∧
    ∀ present : BitVec 128, ∃ bitmap : List Byte,
      encodeResponse ⟨.ok, some present⟩ = 0x00 :: bitmap ∧ bitmap.length = 16 ∧
        ∀ a, a < 128 → ∃ v, bitmap[a / 8]? = some v ∧ v.getLsbD (a % 8) = present.getLsbD a

/-- 10_state.md section 3: INIT_STATE as a 16-bit word, field by field, the reserved bits zero; a word is a register value
exactly if it holds no reserved encoding, and then it is that value's word. The fields as enumerations: assumption log 5,
DEDUCED from the spec's own permission. -/
def Obligations.InitStateWordHasItsFields : Prop :=
  (∀ r : InitState,
      (r.toWord.extractLsb' 0 2).toNat = (match r.state with | .uninit => 0 | .ready => 1 | .failed => 2) ∧
        (r.toWord.extractLsb' 2 2).toNat =
          (match r.failCause with | none => 0 | some .nack => 1 | some .timeout => 2) ∧
        (r.toWord.extractLsb' 4 5).toNat = r.failStep.val ∧ r.toWord.extractLsb' 9 7 = 0 ∧
        InitState.ofWord r.toWord = some r) ∧
    ∀ w : BitVec 16,
      (∀ r, InitState.ofWord w = some r → r.toWord = w) ∧
        (InitState.ofWord w = none ↔
          (w.extractLsb' 0 2 = 3 ∨ w.extractLsb' 2 2 = 3 ∨ 19 ≤ (w.extractLsb' 4 5).toNat ∨ w.extractLsb' 9 7 ≠ 0))

/-- 30_encoding.md section 4, well-formedness: parameters are refused at configuration time exactly if a check fails. -/
def Obligations.ConfigurationRefusesBadTables : Prop :=
  ∀ p : Params, p.configure = none ↔
    ¬(p.initTable.length = 18 ∧ (∀ step ∈ p.initTable, step ≠ [] ∧ step.length ≤ p.maxPayload) ∧
      (p.initFraming = .single → p.initTable.flatten.length ≤ p.maxPayload) ∧ 72 ≤ p.maxPayload)

/-! ## Reset, the port, the step -/

/-- 70_reset_and_hazards.md section 1: the reset state. FB zero and INIT_STATE 0x0000 are the spec's decision D6; the empty
port and the default build are the model's choice (assumption logs 1, 2, 4, 8). -/
def Obligations.ResetStateIsUninitialised : Prop :=
  (∀ i, i < 360 → State.reset.fb.read i = 0x00) ∧ State.reset.initState.toWord = 0x0000 ∧
    State.reset.initState.state = .uninit ∧ State.reset.log = [] ∧ State.reset.seq = .idle

/-- The reset state satisfies the invariant of `StepKeepsTheInvariant`. -/
def Obligations.ResetStateSatisfiesTheInvariant : Prop := State.Inv State.reset

/-- 70_reset_and_hazards.md section 1, the reset event: it clears FB, INIT_STATE, LOG and the sequencer, submits no frame,
answers nothing, and leaves the configuration. That the host's port and what it received stay is the model's choice
(assumption log 8), and so is taking the signal between operations (log 18). -/
def Obligations.ResetEventClearsTheBlock : Prop :=
  ∀ (s : State) (rest : List HostInput), s.inputs = .reset :: rest →
    ∃ t, step s = .next t ∧ (∀ i, i < 360 → t.fb.read i = 0x00) ∧ t.initState.toWord = 0x0000 ∧ t.log = [] ∧
      t.seq = .idle ∧ t.cfg = s.cfg ∧ t.inputs = rest ∧ t.responses = s.responses ∧ t.bus = s.bus

/-- 00_scope.md section 6 and 30_encoding.md section 1: when the host's next request decodes to i, the step takes the request
off the port and is exec of i. -/
def Obligations.StepRunsTheDecodedRequest : Prop :=
  ∀ (s : State) (bytes : List Byte) (rest : List HostInput) (i : Instr),
    s.inputs = .request bytes :: rest → decode s.params.maxPayload bytes = .ok i →
      step s = exec i { s with inputs := rest }

/-- 60_exceptions.md section 1, IllegalRequest (the spec's decision D3): a request that does not decode answers 0xFF and
changes nothing else but the port. That the step takes the request off the port and answers a next state is DEDUCED (assumption
log 17), and so is that a request of no bytes is one of them (log 9). -/
def Obligations.IllegalRequestOnlyAnswers : Prop :=
  ∀ (s : State) (bytes : List Byte) (rest : List HostInput) (e : DecodeError),
    s.inputs = .request bytes :: rest → decode s.params.maxPayload bytes = .error e →
      step s = .next { s with inputs := rest, responses := s.responses ++ [⟨.illegalRequest, none⟩], seq := .idle } ∧
        encodeResponse ⟨.illegalRequest, none⟩ = [0xFF]

/-- 70_reset_and_hazards.md section 1, "After reset it waits for the first request": with no input outstanding the step
changes nothing. That waiting is a step is the model's choice (assumption log 1). -/
def Obligations.StepWaitsForInput : Prop := ∀ s : State, s.inputs = [] → step s = .next s

/-! ## Bus Transport -/

/-- 40_bus_transport.md section 2: WRITE in every state, zero-length and not, by the frame's outcome. -/
def Obligations.WriteSubmitsOneFrame : Prop :=
  ∀ (addr : BusAddr) (ctrl : Byte) (payload : List Byte) (s : State),
    exec (.write addr ctrl payload) s = .next
      (if payload = [] then { s with responses := s.responses ++ [⟨.ok, none⟩], seq := .idle }
      else
        { s with
          log := s.log ++ [⟨writeFrame addr ctrl payload, .write, s.bus.peek 0⟩]
          bus := s.bus.advance 1
          responses := s.responses ++ [⟨outcomeStatus (s.bus.peek 0), none⟩]
          seq := .idle })

/-- 40_bus_transport.md section 3: PROBE in every state submits its address-only frame, by its outcome. -/
def Obligations.ProbeSubmitsItsAddressOnly : Prop :=
  ∀ (addr : BusAddr) (s : State),
    exec (.probe addr) s = .next
      { s with
        log := s.log ++ [⟨[.start, .byte (addrByte addr), .stop], .probe, s.bus.peek 0⟩]
        bus := s.bus.advance 1
        responses := s.responses ++ [⟨outcomeStatus (s.bus.peek 0), none⟩]
        seq := .idle }

/-- 40_bus_transport.md section 4: SCAN in every state and for every scan range: one probe per address, ascending, and a
bitmap with exactly the addresses that acknowledged; it always answers OK. That it ranges over every SCAN_LO and SCAN_HI, which
00_scope.md section 3 lists as parameters and conflict C9 fixes at 0x03 and 0x77, is DEDUCED (assumption log 15);
`ScanProbesTheValidRange` says it for the spec's own range. -/
def Obligations.ScanReportsWhoAcknowledged : Prop :=
  ∀ s : State, ∃ present : BitVec 128,
    exec .scan s = .next
      { s with
        log := s.log ++ scanEntries s.bus
          ((List.range (s.params.scanHi.toNat + 1 - s.params.scanLo.toNat)).map fun j =>
            BitVec.ofNat 7 (s.params.scanLo.toNat + j))
        bus := s.bus.advance (s.params.scanHi.toNat + 1 - s.params.scanLo.toNat)
        responses := s.responses ++ [⟨.ok, some present⟩]
        seq := .idle } ∧
      ∀ a : BusAddr, present.getLsbD a.toNat = true ↔
        (s.params.scanLo ≤ a ∧ a ≤ s.params.scanHi ∧ s.bus.peek (a.toNat - s.params.scanLo.toNat) = .ack)

/-- 40_bus_transport.md section 4, the source's range 0x03–0x77: exactly 117 probes, in ascending order, and no bit for
0x00–0x02 and 0x78–0x7F. -/
def Obligations.ScanProbesTheValidRange : Prop :=
  ∀ s : State, s.params.scanLo = 0x03 → s.params.scanHi = 0x77 →
    ∃ t present, exec .scan s = .next t ∧ t.responses = s.responses ++ [⟨.ok, some present⟩] ∧
      t.log.length = s.log.length + 117 ∧
      (∀ j, j < 117 → t.log[s.log.length + j]? = some ⟨probeFrame (BitVec.ofNat 7 (3 + j)), .probe, s.bus.peek j⟩) ∧
      (∀ a, (a < 3 ∨ 0x78 ≤ a) → present.getLsbD a = false) ∧ t.fb = s.fb ∧ t.initState = s.initState

/-- 40_bus_transport.md R103: no retry. No operation but SCAN submits anything behind a frame that was not acknowledged; SCAN
submits no frame twice; and a failed frame is the operation's BusError, or INIT's InitError with that cause. -/
def Obligations.NoFrameIsResubmitted : Prop :=
  ∀ (i : Instr) (s t : State), exec i s = .next t →
    ∃ new, t.log = s.log ++ new ∧
      (i = .scan → (new.map (·.frame)).Nodup) ∧
      (i ≠ .scan →
        (∀ e ∈ new.dropLast, e.outcome = .ack) ∧
          ∀ e c, new.getLast? = some e → causeOf e.outcome = some c →
            ∃ st, t.responses = s.responses ++ [⟨st, none⟩] ∧
              (i ≠ .init → st = .busError c) ∧ (i = .init → ∃ k, st = .initError k (some c)))

/-- 40_bus_transport.md R109: SCAN is diagnostic only. Whatever operation follows, it changes FB and INIT_STATE, submits and
answers as it does without the SCAN, given the same bus outcomes. -/
def Obligations.ScanAffectsNoLaterOperation : Prop :=
  ∀ (s u : State), exec .scan s = .next u → ∀ (i : Instr) (t : State), exec i { s with bus := u.bus } = .next t →
    ∃ v, exec i u = .next v ∧ v.fb = t.fb ∧ v.initState = t.initState ∧ v.bus = t.bus ∧
      ∃ new resp, t.log = s.log ++ new ∧ v.log = u.log ++ new ∧ t.responses = s.responses ++ resp ∧
        v.responses = u.responses ++ resp

/-! ## Panel Controller -/

/-- 41_panel_controller.md section 1 (the spec's decision D13): with the latch set, SEND_CMD, SEND_DATA, INIT and FLUSH answer
InitError with the register's step and cause, zero-length sends too, and do nothing else. -/
def Obligations.FailedLatchStopsPanelOperations : Prop :=
  ∀ (s : State), s.initState.state = .failed → ∀ (i : Instr),
    ((∃ bytes, i = .sendCmd bytes) ∨ (∃ bytes, i = .sendData bytes) ∨ i = .init ∨ i = .flush) →
      exec i s = .next
        { s with
          responses := s.responses ++ [⟨.initError s.initState.failStep s.initState.failCause, none⟩]
          seq := .idle }

/-- 41_panel_controller.md section 2: SEND_CMD with the latch clear, before INIT too. -/
def Obligations.SendCmdIsACommandFrameToThePanel : Prop :=
  ∀ (bytes : List Byte) (s : State), s.initState.state ≠ .failed →
    exec (.sendCmd bytes) s = .next
      (if bytes = [] then { s with responses := s.responses ++ [⟨.ok, none⟩], seq := .idle }
      else
        { s with
          log := s.log ++ [⟨writeFrame s.params.panelAddr 0x00 bytes, .write, s.bus.peek 0⟩]
          bus := s.bus.advance 1
          responses := s.responses ++ [⟨outcomeStatus (s.bus.peek 0), none⟩]
          seq := .idle })

/-- 41_panel_controller.md section 3: SEND_DATA with the latch clear, before INIT too. -/
def Obligations.SendDataIsADataFrameToThePanel : Prop :=
  ∀ (bytes : List Byte) (s : State), s.initState.state ≠ .failed →
    exec (.sendData bytes) s = .next
      (if bytes = [] then { s with responses := s.responses ++ [⟨.ok, none⟩], seq := .idle }
      else
        { s with
          log := s.log ++ [⟨writeFrame s.params.panelAddr 0x40 bytes, .write, s.bus.peek 0⟩]
          bus := s.bus.advance 1
          responses := s.responses ++ [⟨outcomeStatus (s.bus.peek 0), none⟩]
          seq := .idle })

/-- 41_panel_controller.md R133: SEND_CMD and SEND_DATA return the BusError of their transaction unmodified, neither changes
INIT_STATE whatever the outcome, and only INIT writes it. -/
def Obligations.SendsPropagateBusErrors : Prop :=
  (∀ (bytes : List Byte) (s : State) (c : Cause), s.initState.state ≠ .failed → bytes ≠ [] →
      causeOf (s.bus.peek 0) = some c → ∀ i, (i = .sendCmd bytes ∨ i = .sendData bytes) →
        ∃ t, exec i s = .next t ∧ t.responses = s.responses ++ [⟨.busError c, none⟩]) ∧
    ∀ (i : Instr) (s t : State), i ≠ .init → exec i s = .next t → t.initState = s.initState

/-- 41_panel_controller.md section 4: INIT with the latch clear and every frame acknowledged, from UNINIT and from READY,
under both framings: the steps in table order, command-framed to the panel, and READY. -/
def Obligations.InitSendsItsTableAndBecomesReady : Prop :=
  ∀ s : State, s.initState.state ≠ .failed → AllAcked s.bus (initFrames s.params).length →
    exec .init s = .next
      { s with
        log := s.log ++ ackedEntries (initFrames s.params)
        bus := s.bus.advance (initFrames s.params).length
        initState := ⟨.ready, none, 0⟩
        responses := s.responses ++ [⟨.ok, none⟩]
        seq := .idle } ∧
      ((initFrames s.params).length = match s.params.initFraming with | .perStep => 18 | .single => 1)

/-- 41_panel_controller.md section 4, failure: INIT stops at the first frame that fails, step k = n + 1, latches {FAILED, c, k}
and answers InitError(k, c); the frames before it are acknowledged and the later ones are not sent. Under SINGLE the one frame
counts as step 1. -/
def Obligations.InitLatchesItsFirstFailure : Prop :=
  ∀ (s : State) (n : Nat) (c : Cause) (hn : n < (initFrames s.params).length), s.initState.state ≠ .failed →
    FirstFailure s.bus n c → ∃ k : StepNo, k.val = n + 1 ∧
      exec .init s = .next
        { s with
          log := s.log ++ ackedEntries ((initFrames s.params).take n) ++
            [⟨(initFrames s.params)[n], .write, s.bus.peek n⟩]
          bus := s.bus.advance (n + 1)
          initState := ⟨.failed, some c, k⟩
          responses := s.responses ++ [⟨.initError k (some c), none⟩]
          seq := .idle }

/-- 41_panel_controller.md section 4 (R134, R140 and the spec's decision D26): INIT neither reads nor writes FB, and does not
depend on it. -/
def Obligations.InitDoesNotTouchTheFramebuffer : Prop :=
  ∀ (s : State) (m : Memory), ∃ t, exec .init s = .next t ∧ t.fb = s.fb ∧
    exec .init { s with fb := m } = .next { t with fb := m }

/-- 10_state.md section 3, transitions (the spec's decisions D13, D14): a step changes INIT_STATE only by the reset signal, or
by an INIT that is not latched, to READY or to FAILED with a cause and a step number; FAILED is left by reset alone. The steps
that wait and that take the reset signal are in the form of the model's choice (assumption logs 1, 18); the step on an illegal
request is DEDUCED (log 17). -/
def Obligations.OnlyInitAndResetChangeInitState : Prop :=
  ∀ s t : State, step s = .next t →
    t.initState = s.initState ∨
      (∃ rest, s.inputs = .reset :: rest ∧ t.initState = .reset) ∨
      (s.initState.state ≠ .failed ∧
        (∃ bytes rest, s.inputs = .request bytes :: rest ∧ decode s.params.maxPayload bytes = .ok .init) ∧
        (t.initState = ⟨.ready, none, 0⟩ ∨ ∃ c k, k ≠ 0 ∧ t.initState = ⟨.failed, some c, k⟩))

/-- 41_panel_controller.md section 4 and 95_test_vectors.md E15, the fatal short-circuit: from a failed INIT, whatever
requests the host issues but WRITE, PROBE and SCAN, illegal ones too (60_exceptions.md section 1), nothing more reaches the bus
and the latch stays, until the reset signal. That requests are a list the steps take one by one is the model's choice (assumption
log 1); that an illegal one is a step of its own is DEDUCED (log 17). -/
def Obligations.FailedInitKeepsThePanelSilent : Prop :=
  ∀ s : State, s.initState.state = .failed →
    (∀ x ∈ s.inputs, ∃ bytes, x = .request bytes ∧ ∀ i, decode s.params.maxPayload bytes = .ok i →
      i ≠ .scan ∧ (∀ a, i ≠ .probe a) ∧ ∀ a c p, i ≠ .write a c p) →
    ∃ t, runInputs s = .next t ∧ t.log = s.log ∧ t.bus = s.bus ∧ t.initState = s.initState ∧ t.inputs = []

/-! ## Framebuffer -/

/-- 20_memory.md section 1, pixel mapping: a bijection between the pixels (x, y) of the panel and the bits b of the bytes
0..359. -/
def Obligations.PixelMappingIsABijection : Prop :=
  (∀ x y, x < 72 → y < 40 →
      pixelIndex x y < 360 ∧ pixelBit y < 8 ∧ pixelIndex x y % 72 = x ∧ pixelIndex x y / 72 * 8 + pixelBit y = y) ∧
    ∀ i b, i < 360 → b < 8 →
      i % 72 < 72 ∧ i / 72 * 8 + b < 40 ∧ pixelIndex (i % 72) (i / 72 * 8 + b) = i ∧ pixelBit (i / 72 * 8 + b) = b

/-- 42_framebuffer.md section 1: SET_PIXEL on the panel, in every state, is one write of one byte, the pixel's bit set or
cleared by its mask; nothing else changes but the response. -/
def Obligations.SetPixelWritesItsByte : Prop :=
  ∀ (x y : Coord) (on : Bool) (s : State), 0 ≤ x.toInt → x.toInt < 72 → 0 ≤ y.toInt → y.toInt < 40 →
    exec (.setPixel x y on) s = .next
      { s with
        fb := s.fb.write (y.toInt.toNat / 8 * 72 + x.toInt.toNat)
          (if on then s.fb.read (y.toInt.toNat / 8 * 72 + x.toInt.toNat) ||| (1#8 <<< (y.toInt.toNat % 8))
          else s.fb.read (y.toInt.toNat / 8 * 72 + x.toInt.toNat) &&& ~~~(1#8 <<< (y.toInt.toNat % 8)))
        responses := s.responses ++ [⟨.ok, none⟩]
        seq := .idle }

/-- 42_framebuffer.md R161: a pixel outside [0, 72) × [0, 40) is clipped, in every state: OK, and no byte changes, so no
out-of-range coordinate aliases onto an in-range byte. -/
def Obligations.SetPixelClipsOutsideThePanel : Prop :=
  ∀ (x y : Coord) (on : Bool) (s : State), (x.toInt < 0 ∨ 72 ≤ x.toInt ∨ y.toInt < 0 ∨ 40 ≤ y.toInt) →
    ∃ t, exec (.setPixel x y on) s = .next t ∧ (∀ a, t.fb.read a = s.fb.read a) ∧
      t = { s with responses := s.responses ++ [⟨.ok, none⟩], seq := .idle }

/-- 42_framebuffer.md section 1, the read-back law: the pixel reads as it was set and every other pixel of the panel as
before. -/
def Obligations.SetPixelReadsBack : Prop :=
  ∀ (x y : Nat) (on : Bool) (s : State), x < 72 → y < 40 → s.fb.wf = true →
    ∃ t, exec (.setPixel (BitVec.ofNat 16 x) (BitVec.ofNat 16 y) on) s = .next t ∧ lit t.fb x y = on ∧
      ∀ x' y', x' < 72 → y' < 40 → (x', y') ≠ (x, y) → lit t.fb x' y' = lit s.fb x' y'

/-- 42_framebuffer.md section 1, SET_PIXEL's frame: INIT_STATE, LOG and the bus are untouched, and every byte reads as before
but the pixel's, whose address is the one the meaning computes. -/
def Obligations.SetPixelChangesOneByteOnly : Prop :=
  ∀ (x y : Coord) (on : Bool) (s t : State), exec (.setPixel x y on) s = .next t →
    t.initState = s.initState ∧ t.log = s.log ∧ t.bus = s.bus ∧ t.cfg = s.cfg ∧ t.inputs = s.inputs ∧
      ∀ a, (onPanel x.toInt y.toInt = true → a ≠ pixelIndex x.toInt.toNat y.toInt.toNat) → t.fb.read a = s.fb.read a

/-- 42_framebuffer.md section 1, commutation: two SET_PIXELs at different coordinates, on the panel or clipped, give the same
state in either order; of two at the same coordinates the later one decides the framebuffer. -/
def Obligations.SetPixelsCommute : Prop :=
  ∀ (x y x' y' : Coord) (on on' : Bool) (s : State), s.fb.wf = true →
    ((x, y) ≠ (x', y') →
        ∃ t, execAll [.setPixel x y on, .setPixel x' y' on'] s = .next t ∧
          execAll [.setPixel x' y' on', .setPixel x y on] s = .next t) ∧
      ∃ t u, execAll [.setPixel x y on, .setPixel x y on'] s = .next t ∧ exec (.setPixel x y on') s = .next u ∧
        t.fb = u.fb

/-- 42_framebuffer.md section 2: CLEAR, in every state, turns every pixel off, zeroes all 360 bytes and touches neither
INIT_STATE nor LOG nor the bus. -/
def Obligations.ClearTurnsEveryPixelOff : Prop :=
  ∀ s : State, ∃ t, exec .clear s = .next t ∧ (∀ i, i < 360 → t.fb.read i = 0x00) ∧
    (∀ x y, x < 72 → y < 40 → lit t.fb x y = false) ∧
    t = { s with fb := t.fb, responses := s.responses ++ [⟨.ok, none⟩], seq := .idle }

/-- 42_framebuffer.md section 2, the pseudocode: on a canonical framebuffer CLEAR is the write of 0x00 to the indices
0, 1, ..., 359 in turn. -/
def Obligations.ClearIsTheLoopOfZeroWrites : Prop :=
  ∀ s : State, s.fb.wf = true → ∃ t, exec .clear s = .next t ∧
    t.fb = s.fb.writeAll 0 (List.replicate 360 (0x00 : Byte)) ∧ t.fb.wf = true

/-! ## Flush Protocol -/

/-- 44_flush.md section on FLUSH, every frame acknowledged: with the latch clear (UNINIT too) LOG gains exactly the pages'
addressing and data frames, pages 0..4 in order, 10 frames under TRIPLET and 20 under SEPARATE; FB and INIT_STATE are
unchanged. -/
def Obligations.FlushSendsEveryPageInOrder : Prop :=
  ∀ s : State, s.initState.state ≠ .failed → AllAcked s.bus (flushFrames s.params s.fb).length →
    exec .flush s = .next
      { s with
        log := s.log ++ ackedEntries (flushFrames s.params s.fb)
        bus := s.bus.advance (flushFrames s.params s.fb).length
        responses := s.responses ++ [⟨.ok, none⟩]
        seq := .idle } ∧
      (flushFrames s.params s.fb).length = match s.params.flushFraming with | .triplet => 10 | .separate => 20

/-- 44_flush.md on FLUSH, failure: FLUSH stops at the first frame that fails and returns its BusError unmodified; the later
frames and pages are not submitted; FB and INIT_STATE are unchanged. -/
def Obligations.FlushStopsAtItsFirstFailure : Prop :=
  ∀ (s : State) (n : Nat) (c : Cause) (hn : n < (flushFrames s.params s.fb).length), s.initState.state ≠ .failed →
    FirstFailure s.bus n c →
      exec .flush s = .next
        { s with
          log := s.log ++ ackedEntries ((flushFrames s.params s.fb).take n) ++
            [⟨(flushFrames s.params s.fb)[n], .write, s.bus.peek n⟩]
          bus := s.bus.advance (n + 1)
          responses := s.responses ++ [⟨.busError c, none⟩]
          seq := .idle }

/-- 44_flush.md R203: a failed send aborts the remaining pages and returns the failure at once, with no rollback; FB and
INIT_STATE are unchanged and nothing but LOG, the responses and the bus environment differs, which no operation reads
(`LogIsNeverRead`). The next FLUSH starts at page 0 again, whatever the bus answers: what it submits is the first m frames of the
whole frame; if they are acknowledged it sends the whole frame and answers OK. -/
def Obligations.NextFlushSendsTheWholeFrame : Prop :=
  ∀ (s : State) (n : Nat) (c : Cause), n < (flushFrames s.params s.fb).length → s.initState.state ≠ .failed →
    FirstFailure s.bus n c →
      ∃ t u m, exec .flush s = .next t ∧ t.fb = s.fb ∧ t.initState = s.initState ∧
        t.responses = s.responses ++ [⟨.busError c, none⟩] ∧ t.log.length = s.log.length + (n + 1) ∧
        t = { s with log := t.log, responses := t.responses, bus := s.bus.advance (n + 1), seq := .idle } ∧
        exec .flush t = .next u ∧ 0 < m ∧ m ≤ (flushFrames s.params s.fb).length ∧
        u.log.map (·.frame) = t.log.map (·.frame) ++ (flushFrames s.params s.fb).take m ∧
        (AllAcked t.bus (flushFrames s.params s.fb).length →
          u.log = t.log ++ ackedEntries (flushFrames s.params s.fb) ∧ u.responses = t.responses ++ [⟨.ok, none⟩])

/-- 44_flush.md, snapshot: data byte j of page p's data frame, the last frame of the page under either framing, is
FB[p·72 + j] as FB stood, and its bit b is the pixel (j, 8p + b). -/
def Obligations.FlushDataFramesCarryThePixels : Prop :=
  ∀ (s : State) (p j b : Nat), p < 5 → j < 72 → b < 8 → s.initState.state ≠ .failed →
    AllAcked s.bus (flushFrames s.params s.fb).length →
      ∃ t e v, exec .flush s = .next t ∧
        t.log[s.log.length + match s.params.flushFraming with | .triplet => 2 * p + 1 | .separate => 4 * p + 3]?
          = some e ∧
        e.frame[3 + j]? = some (.byte v) ∧ v = s.fb.read (p * 72 + j) ∧ v.getLsbD b = lit s.fb j (8 * p + b)

/-! ## Wire bytes -/

/-- 30_encoding.md sections 2 and 3: each wire byte goes behind what the frame in flight holds, and nothing else changes. That
the rows are modelled as the framer's composition steps is the model's choice (assumption log 3). -/
def Obligations.WireBytesJoinTheFrameInFlight : Prop :=
  ∀ s : State,
    (∀ a : BusAddr, exec (.wireAddrByte a) s = .next (s.withFrame (s.seq.frame ++ [.byte (a ++ 0#1)]))) ∧
      exec .wireCtrlCmd s = .next (s.withFrame (s.seq.frame ++ [.byte 0x00])) ∧
      exec .wireCtrlData s = .next (s.withFrame (s.seq.frame ++ [.byte 0x40])) ∧
      (∀ l : BitVec 4, exec (.wireLowCol l) s = .next (s.withFrame (s.seq.frame ++ [.byte (0x0#4 ++ l)]))) ∧
      (∀ h : BitVec 4, exec (.wireHighCol h) s = .next (s.withFrame (s.seq.frame ++ [.byte (0x1#4 ++ h)]))) ∧
      ∀ p : BitVec 4, exec (.wirePage p) s = .next (s.withFrame (s.seq.frame ++ [.byte (0xB#4 ++ p)]))

/-! ## All operations -/

/-- 20_memory.md section 1 (no operation can raise an out-of-range framebuffer access) and 60_exceptions.md section 1 (errors
are statuses): every instruction, in every state, answers a next state. That the wire-byte rows are instructions with a next
state is the model's choice (assumption log 3). -/
def Obligations.NoInstructionStops : Prop := ∀ (i : Instr) (s : State), ∃ t, exec i s = .next t

/-- 60_exceptions.md section 1, "After any status the block waits for the next request": every step answers a next state, so
nothing the host sends stops the block. That waiting without input is a step is the model's choice (assumption log 1); that an
illegal request is a step with a next state is DEDUCED (log 17). -/
def Obligations.NoStepStops : Prop := ∀ s : State, ∃ t, step s = .next t

/-- 10_state.md section 2 (conflict C4): FB is written by SET_PIXEL and CLEAR alone; every byte reads as before after any
other instruction, the wire-byte rows as the model has them among them (assumption log 3, the model's choice). -/
def Obligations.OnlySetPixelAndClearWriteFB : Prop :=
  ∀ (i : Instr) (s t : State), i ≠ .clear → (∀ x y on, i ≠ .setPixel x y on) → exec i s = .next t →
    ∀ a, t.fb.read a = s.fb.read a

/-- 10_state.md sections 4 to 7, 42_framebuffer.md sections 1 and 2, 30_encoding.md section 1, 60_exceptions.md section 1: LOG
only grows, and not by SET_PIXEL or CLEAR; no instruction changes the configuration or the port; an operation returns exactly one
response, a bitmap with SCAN only, and leaves no counter and no frame live. The clauses on wire bytes (no entry of LOG, no outcome
drawn, no response) are the model's choice (assumption log 3), and so is keeping port and responses in State (logs 1, 8). -/
def Obligations.EveryOperationAnswersOnce : Prop :=
  ∀ (i : Instr) (s t : State), exec i s = .next t →
    t.cfg = s.cfg ∧ t.inputs = s.inputs ∧
      (∃ new, t.log = s.log ++ new ∧
        ((i = .clear ∨ (∃ x y on, i = .setPixel x y on) ∨ i.isOperation = false) → new = [] ∧ t.bus = s.bus)) ∧
      (i.isOperation = true →
        t.seq = .idle ∧ ∃ r, t.responses = s.responses ++ [r] ∧ (r.present ≠ none ↔ i = .scan)) ∧
      (i.isOperation = false → t.responses = s.responses)

/-- 10_state.md section 4: LOG is observation state that no operation reads; and section 7: nothing persists between operations
but FB, INIT_STATE and LOG, so no operation reads an earlier response either. Replacing both changes nothing of what an
instruction does or appends. That the responses are a list in State is the model's choice (assumption log 8). -/
def Obligations.LogIsNeverRead : Prop :=
  ∀ (i : Instr) (s t : State) (l : List LogEntry) (r : List Response), exec i s = .next t →
    ∃ new resp, t.log = s.log ++ new ∧ t.responses = s.responses ++ resp ∧
      exec i { s with log := l, responses := r } = .next { t with log := l ++ new, responses := r ++ resp }

/-- Every step keeps the invariant: FB in canonical form inside its 360 bytes, INIT_STATE's fields agreeing (10_state.md
section 3), no counter or frame live between operations (10_state.md section 5), every entry of LOG a write frame with at least
one payload byte or a probe frame (30_encoding.md section 2), every response one the spec can produce (30_encoding.md
section 1). That the step waits without input, takes the reset signal between operations and keeps the responses over it is the
model's choice (assumption logs 1, 8, 18); that it consumes an illegal request is DEDUCED (log 17). -/
def Obligations.StepKeepsTheInvariant : Prop := ∀ s t : State, State.Inv s → step s = .next t → State.Inv t

/-! ## Clients outside the block -/

/-- 43_glyph_renderer.md section 2, drawGlyph: 64 requests; on a cell inside the panel every pixel of the cell reads as its
glyph bit, set or cleared, and every other pixel as before. -/
def Obligations.DrawGlyphPaintsItsCell : Prop :=
  ∀ (font : Font) (order : GlyphBitOrder) (x y : Nat) (c : Byte) (s : State), x ≤ 64 → y ≤ 32 → s.fb.wf = true →
    (drawGlyph font order x y c).length = 64 ∧
      ∃ t, execAll (drawGlyph font order x y c) s = .next t ∧
        (∀ r col, r < 8 → col < 8 → lit t.fb (x + col) (y + r) = glyphBit font order c r col) ∧
        ∀ x' y', x' < 72 → y' < 40 → ¬(x ≤ x' ∧ x' < x + 8 ∧ y ≤ y' ∧ y' < y + 8) →
          lit t.fb x' y' = lit s.fb x' y'

/-- 43_glyph_renderer.md sections 2 and 3, drawString: from x = 0 exactly min(len, 9) glyphs of 64 requests; the empty string
issues none; no glyph is drawn from a cursor beyond WIDTH - 8. The bound on y is the range of the port, outside which the
client issues no request (assumption log 13, the model's choice). -/
def Obligations.DrawStringStopsAtThePanelEdge : Prop :=
  ∀ (font : Font) (order : GlyphBitOrder) (y : Int) (text : List Byte), -32768 ≤ y → y ≤ 32760 →
    (drawString font order 0 y text).length = 64 * min text.length 9 ∧
      (∀ x : Int, drawString font order x y [] = []) ∧
      ∀ x : Int, 64 < x → drawString font order x y text = []

/-- 43_glyph_renderer.md section 3, centering: after CLEAR, two centered strings of five glyphs at rows 12 and 24 light only
pixels of columns 16..55 in rows 12..19 and 24..31. -/
def Obligations.CenteredStringsLightTheirRowsOnly : Prop :=
  ∀ (font : Font) (order : GlyphBitOrder) (hello world : List Byte) (s : State), hello.length = 5 → world.length = 5 →
    ∃ t, execAll (.clear :: (drawStringCentered font order 12 hello ++ drawStringCentered font order 24 world)) s
        = .next t ∧
      ∀ x y, x < 72 → y < 40 → lit t.fb x y = true →
        16 ≤ x ∧ x < 56 ∧ ((12 ≤ y ∧ y < 20) ∨ (24 ≤ y ∧ y < 32))

/-- 45_serial_line.md R221: whatever the input, READY is rendered and then echoed, exactly once, before the events of any
input byte. -/
def Obligations.SerialLineStartsWithReady : Prop :=
  ∀ (emptyLine : EmptyLine) (input : List Byte),
    (serialRun emptyLine input).2 =
        .render [0x52, 0x45, 0x41, 0x44, 0x59] :: .echo [0x52, 0x45, 0x41, 0x44, 0x59] ::
          (onBytes emptyLine ⟨[]⟩ input).2 ∧
      (serialRun emptyLine input).1 = (onBytes emptyLine ⟨[]⟩ input).1

/-- 45_serial_line.md, the input byte step: a line of any bytes but terminators, then a terminator, renders and echoes its
first ten bytes and empties the buffer; an empty line gives events under EMIT only (the spec's decision D35). -/
def Obligations.SerialLineKeepsTenBytes : Prop :=
  ∀ (emptyLine : EmptyLine) (line : List Byte) (b : Byte), (∀ v ∈ line, v ≠ 0x0A ∧ v ≠ 0x0D) → (b = 0x0A ∨ b = 0x0D) →
    (onBytes emptyLine ⟨[]⟩ line = (⟨line.take 10⟩, [])) ∧
      onBytes emptyLine ⟨[]⟩ (line ++ [b]) =
        (⟨[]⟩, if line = [] ∧ emptyLine = .skip then []
          else [.render (line.take 10), .echo (line.take 10)])
end

