-- ==== Sys2Proof/Laws/State.lean ====
section
/-! SUPPORT. One lemma per field per update of State, true by unfolding, so that no later proof unfolds a record update. -/

namespace Sys2Proof.Machine

@[simp] theorem withFrame_fb (s : State) (f : Frame) : (s.withFrame f).fb = s.fb := rfl
@[simp] theorem withFrame_initState (s : State) (f : Frame) : (s.withFrame f).initState = s.initState := rfl
@[simp] theorem withFrame_log (s : State) (f : Frame) : (s.withFrame f).log = s.log := rfl
@[simp] theorem withFrame_seq (s : State) (f : Frame) : (s.withFrame f).seq = { s.seq with frame := f } := rfl
@[simp] theorem withFrame_cfg (s : State) (f : Frame) : (s.withFrame f).cfg = s.cfg := rfl
@[simp] theorem withFrame_inputs (s : State) (f : Frame) : (s.withFrame f).inputs = s.inputs := rfl
@[simp] theorem withFrame_responses (s : State) (f : Frame) : (s.withFrame f).responses = s.responses := rfl
@[simp] theorem withFrame_bus (s : State) (f : Frame) : (s.withFrame f).bus = s.bus := rfl
@[simp] theorem withFrame_params (s : State) (f : Frame) : (s.withFrame f).params = s.params := rfl

@[simp] theorem atStep_fb (s : State) (k : Nat) : (s.atStep k).fb = s.fb := rfl
@[simp] theorem atStep_initState (s : State) (k : Nat) : (s.atStep k).initState = s.initState := rfl
@[simp] theorem atStep_log (s : State) (k : Nat) : (s.atStep k).log = s.log := rfl
@[simp] theorem atStep_seq (s : State) (k : Nat) : (s.atStep k).seq = { s.seq with k := some k } := rfl
@[simp] theorem atStep_cfg (s : State) (k : Nat) : (s.atStep k).cfg = s.cfg := rfl
@[simp] theorem atStep_inputs (s : State) (k : Nat) : (s.atStep k).inputs = s.inputs := rfl
@[simp] theorem atStep_responses (s : State) (k : Nat) : (s.atStep k).responses = s.responses := rfl
@[simp] theorem atStep_bus (s : State) (k : Nat) : (s.atStep k).bus = s.bus := rfl
@[simp] theorem atStep_params (s : State) (k : Nat) : (s.atStep k).params = s.params := rfl

@[simp] theorem atPage_fb (s : State) (p : Nat) : (s.atPage p).fb = s.fb := rfl
@[simp] theorem atPage_initState (s : State) (p : Nat) : (s.atPage p).initState = s.initState := rfl
@[simp] theorem atPage_log (s : State) (p : Nat) : (s.atPage p).log = s.log := rfl
@[simp] theorem atPage_seq (s : State) (p : Nat) : (s.atPage p).seq = { s.seq with p := some p } := rfl
@[simp] theorem atPage_cfg (s : State) (p : Nat) : (s.atPage p).cfg = s.cfg := rfl
@[simp] theorem atPage_inputs (s : State) (p : Nat) : (s.atPage p).inputs = s.inputs := rfl
@[simp] theorem atPage_responses (s : State) (p : Nat) : (s.atPage p).responses = s.responses := rfl
@[simp] theorem atPage_bus (s : State) (p : Nat) : (s.atPage p).bus = s.bus := rfl
@[simp] theorem atPage_params (s : State) (p : Nat) : (s.atPage p).params = s.params := rfl

@[simp] theorem atAddr_fb (s : State) (a : Nat) : (s.atAddr a).fb = s.fb := rfl
@[simp] theorem atAddr_initState (s : State) (a : Nat) : (s.atAddr a).initState = s.initState := rfl
@[simp] theorem atAddr_log (s : State) (a : Nat) : (s.atAddr a).log = s.log := rfl
@[simp] theorem atAddr_seq (s : State) (a : Nat) : (s.atAddr a).seq = { s.seq with a := some a } := rfl
@[simp] theorem atAddr_cfg (s : State) (a : Nat) : (s.atAddr a).cfg = s.cfg := rfl
@[simp] theorem atAddr_inputs (s : State) (a : Nat) : (s.atAddr a).inputs = s.inputs := rfl
@[simp] theorem atAddr_responses (s : State) (a : Nat) : (s.atAddr a).responses = s.responses := rfl
@[simp] theorem atAddr_bus (s : State) (a : Nat) : (s.atAddr a).bus = s.bus := rfl
@[simp] theorem atAddr_params (s : State) (a : Nat) : (s.atAddr a).params = s.params := rfl

@[simp] theorem respondWith_fb (s : State) (r : Response) : (respondWith r s).fb = s.fb := rfl
@[simp] theorem respondWith_initState (s : State) (r : Response) : (respondWith r s).initState = s.initState := rfl
@[simp] theorem respondWith_log (s : State) (r : Response) : (respondWith r s).log = s.log := rfl
@[simp] theorem respondWith_seq (s : State) (r : Response) : (respondWith r s).seq = .idle := rfl
@[simp] theorem respondWith_cfg (s : State) (r : Response) : (respondWith r s).cfg = s.cfg := rfl
@[simp] theorem respondWith_inputs (s : State) (r : Response) : (respondWith r s).inputs = s.inputs := rfl
@[simp] theorem respondWith_responses (s : State) (r : Response) : (respondWith r s).responses = s.responses ++ [r] := rfl
@[simp] theorem respondWith_bus (s : State) (r : Response) : (respondWith r s).bus = s.bus := rfl
@[simp] theorem respondWith_params (s : State) (r : Response) : (respondWith r s).params = s.params := rfl

@[simp] theorem respond_fb (s : State) (st : Status) : (respond st s).fb = s.fb := rfl
@[simp] theorem respond_initState (s : State) (st : Status) : (respond st s).initState = s.initState := rfl
@[simp] theorem respond_log (s : State) (st : Status) : (respond st s).log = s.log := rfl
@[simp] theorem respond_seq (s : State) (st : Status) : (respond st s).seq = .idle := rfl
@[simp] theorem respond_cfg (s : State) (st : Status) : (respond st s).cfg = s.cfg := rfl
@[simp] theorem respond_inputs (s : State) (st : Status) : (respond st s).inputs = s.inputs := rfl
@[simp] theorem respond_responses (s : State) (st : Status) : (respond st s).responses = s.responses ++ [⟨st, none⟩] := rfl
@[simp] theorem respond_bus (s : State) (st : Status) : (respond st s).bus = s.bus := rfl
@[simp] theorem respond_params (s : State) (st : Status) : (respond st s).params = s.params := rfl

@[simp] theorem initFailed_fb (s : State) (k : StepNo) (c : Cause) : (initFailed k c s).fb = s.fb := rfl
@[simp] theorem initFailed_initState (s : State) (k : StepNo) (c : Cause) : (initFailed k c s).initState = ⟨.failed, some c, k⟩ := rfl
@[simp] theorem initFailed_log (s : State) (k : StepNo) (c : Cause) : (initFailed k c s).log = s.log := rfl
@[simp] theorem initFailed_seq (s : State) (k : StepNo) (c : Cause) : (initFailed k c s).seq = .idle := rfl
@[simp] theorem initFailed_cfg (s : State) (k : StepNo) (c : Cause) : (initFailed k c s).cfg = s.cfg := rfl
@[simp] theorem initFailed_inputs (s : State) (k : StepNo) (c : Cause) : (initFailed k c s).inputs = s.inputs := rfl
@[simp] theorem initFailed_responses (s : State) (k : StepNo) (c : Cause) : (initFailed k c s).responses = s.responses ++ [⟨.initError k (some c), none⟩] := rfl
@[simp] theorem initFailed_bus (s : State) (k : StepNo) (c : Cause) : (initFailed k c s).bus = s.bus := rfl
@[simp] theorem initFailed_params (s : State) (k : StepNo) (c : Cause) : (initFailed k c s).params = s.params := rfl

@[simp] theorem initReady_fb (s : State) : (initReady s).fb = s.fb := rfl
@[simp] theorem initReady_initState (s : State) : (initReady s).initState = ⟨.ready, none, 0⟩ := rfl
@[simp] theorem initReady_log (s : State) : (initReady s).log = s.log := rfl
@[simp] theorem initReady_seq (s : State) : (initReady s).seq = .idle := rfl
@[simp] theorem initReady_cfg (s : State) : (initReady s).cfg = s.cfg := rfl
@[simp] theorem initReady_inputs (s : State) : (initReady s).inputs = s.inputs := rfl
@[simp] theorem initReady_responses (s : State) : (initReady s).responses = s.responses ++ [⟨.ok, none⟩] := rfl
@[simp] theorem initReady_bus (s : State) : (initReady s).bus = s.bus := rfl
@[simp] theorem initReady_params (s : State) : (initReady s).params = s.params := rfl

@[simp] theorem resetBlock_fb (s : State) : (resetBlock s).fb = [] := rfl
@[simp] theorem resetBlock_initState (s : State) : (resetBlock s).initState = .reset := rfl
@[simp] theorem resetBlock_log (s : State) : (resetBlock s).log = [] := rfl
@[simp] theorem resetBlock_seq (s : State) : (resetBlock s).seq = .idle := rfl
@[simp] theorem resetBlock_cfg (s : State) : (resetBlock s).cfg = s.cfg := rfl
@[simp] theorem resetBlock_inputs (s : State) : (resetBlock s).inputs = s.inputs := rfl
@[simp] theorem resetBlock_responses (s : State) : (resetBlock s).responses = s.responses := rfl
@[simp] theorem resetBlock_bus (s : State) : (resetBlock s).bus = s.bus := rfl
@[simp] theorem resetBlock_params (s : State) : (resetBlock s).params = s.params := rfl

end Sys2Proof.Machine
end

