-- ==== Sys2Proof/Laws/Bus.lean ====
section
/-! SUPPORT. The bus environment and single transactions: what each can do, said once. -/

namespace Sys2Proof.Machine

@[simp] theorem peek_advance (e : BusEnv) (m n : Nat) : (e.advance m).peek n = e.peek (m + n) := by
  simp [BusEnv.peek, BusEnv.advance, List.getElem?_drop, Nat.add_assoc]

@[simp] theorem advance_advance (e : BusEnv) (m n : Nat) : (e.advance m).advance n = e.advance (m + n) := by
  simp [BusEnv.advance, List.drop_drop, Nat.add_assoc]

@[simp] theorem advance_zero (e : BusEnv) : e.advance 0 = e := by simp [BusEnv.advance]

theorem causeOf_eq_none {o : BusOutcome} : causeOf o = none ↔ o = .ack := by cases o <;> simp [causeOf]

/-- A transaction is logged with its outcome; the frame in flight is gone. -/
def State.logged (s : State) (f : Frame) (kind : TxnKind) : State :=
  { s with
    log := s.log ++ [⟨f, kind, s.bus.peek 0⟩]
    bus := s.bus.advance 1
    seq := { s.seq with frame := [] } }

@[simp] theorem logged_fb (s : State) (f : Frame) (k : TxnKind) : (s.logged f k).fb = s.fb := rfl
@[simp] theorem logged_initState (s : State) (f : Frame) (k : TxnKind) : (s.logged f k).initState = s.initState := rfl
@[simp] theorem logged_log (s : State) (f : Frame) (k : TxnKind) :
    (s.logged f k).log = s.log ++ [⟨f, k, s.bus.peek 0⟩] := rfl
@[simp] theorem logged_cfg (s : State) (f : Frame) (k : TxnKind) : (s.logged f k).cfg = s.cfg := rfl
@[simp] theorem logged_inputs (s : State) (f : Frame) (k : TxnKind) : (s.logged f k).inputs = s.inputs := rfl
@[simp] theorem logged_responses (s : State) (f : Frame) (k : TxnKind) : (s.logged f k).responses = s.responses := rfl
@[simp] theorem logged_bus (s : State) (f : Frame) (k : TxnKind) : (s.logged f k).bus = s.bus.advance 1 := rfl
@[simp] theorem logged_params (s : State) (f : Frame) (k : TxnKind) : (s.logged f k).params = s.params := rfl

/-- PROBE's transaction submits exactly its probe frame. -/
theorem probeTxn_eq (addr : BusAddr) (s : State) :
    probeTxn addr s = (s.logged (probeFrame addr) .probe, causeOf (s.bus.peek 0)) := rfl

/-- A zero-length WRITE submits nothing. -/
@[simp] theorem writeTxn_nil (addr : BusAddr) (ctrl : Byte) (s : State) : writeTxn addr ctrl [] s = (s, none) := rfl

/-- WRITE of a non-empty payload submits exactly its write frame. -/
theorem writeTxn_eq {payload : List Byte} (addr : BusAddr) (ctrl : Byte) (s : State) (h : payload ≠ []) :
    writeTxn addr ctrl payload s = (s.logged (writeFrame addr ctrl payload) .write, causeOf (s.bus.peek 0)) := by
  simp [writeTxn, h, submit, endFrame, composeBytes, composeByte, beginFrame, State.withFrame, State.logged,
    writeFrame]

/-- A send to the panel of a non-empty payload submits exactly its write frame. -/
theorem panelSend_eq {payload : List Byte} (ctrl : Byte) (s : State) (h : payload ≠ []) :
    panelSend ctrl payload s =
      (s.logged (writeFrame s.params.panelAddr ctrl payload) .write, causeOf (s.bus.peek 0)) :=
  writeTxn_eq _ _ _ h

/-- A zero-length send submits nothing. -/
@[simp] theorem panelSend_nil (ctrl : Byte) (s : State) : panelSend ctrl [] s = (s, none) := rfl

/-! ## The wire bytes by their patterns -/

theorem addrByte_eq (a : BusAddr) : addrByte a = a ++ 0#1 := by revert a; decide

theorem lowColCmd_nibble (l : BitVec 4) : lowColCmd l.toNat = 0x0#4 ++ l := by revert l; decide

theorem highColCmd_nibble (h : BitVec 4) : highColCmd (h.toNat * 16) = 0x1#4 ++ h := by revert h; decide

theorem pageCmd_nibble (p : BitVec 4) : pageCmd p.toNat = 0xB#4 ++ p := by revert p; decide

end Sys2Proof.Machine
end

