-- ==== Sys2Proof/Laws/Decode.lean ====
section
/-! SUPPORT. The field helpers of the decoder and the encoder undo each other. -/

namespace Sys2Proof

@[simp] theorem join16_bytes (v : BitVec 16) : join16 (lowByte v) (highByte v) = v := by
  apply BitVec.eq_of_getLsbD_eq
  intro i hi
  simp only [join16, lowByte, highByte, BitVec.getLsbD_or, BitVec.getLsbD_setWidth, BitVec.getLsbD_shiftLeft,
    BitVec.getLsbD_extractLsb']
  by_cases h : i < 8
  · simp [h, hi]
  · have h8 : i - 8 < 8 := by omega
    have h16 : i - 8 < 16 := by omega
    have e : 8 + (i - 8) = i := by omega
    simp [h, hi, h8, h16, e]

@[simp] theorem lowByte_join16 (lo hi : Byte) : lowByte (join16 lo hi) = lo := by
  apply BitVec.eq_of_getLsbD_eq
  intro i h
  have h16 : i < 16 := by omega
  simp [join16, lowByte, h, h16]

@[simp] theorem highByte_join16 (lo hi : Byte) : highByte (join16 lo hi) = hi := by
  apply BitVec.eq_of_getLsbD_eq
  intro i h
  have h16 : 8 + i < 16 := by omega
  simp [join16, highByte, h, h16]

theorem addrOperand_bit7 (a : BusAddr) : (addrOperand a).getLsbD 7 = false := by
  simp [addrOperand]

@[simp] theorem addrOperand_getElem_7 (a : BusAddr) : (addrOperand a)[7] = false := addrOperand_bit7 a

@[simp] theorem addrOperand_truncate (a : BusAddr) : (addrOperand a).truncate 7 = a := by
  apply BitVec.eq_of_getLsbD_eq
  intro i h
  simp [addrOperand, h]

theorem addrOperand_of_bit7 {v : Byte} (h : v.getLsbD 7 = false) : addrOperand (v.truncate 7) = v := by
  apply BitVec.eq_of_getLsbD_eq
  intro i hi
  rcases (by omega : i < 7 ∨ i = 7) with h7 | rfl
  · simp [addrOperand, hi, h7]
  · rw [h]; exact addrOperand_bit7 _

@[simp] theorem decodeOn_encodeOn (on : Bool) : decodeOn (encodeOn on) = .ok on := by
  cases on <;> decide

theorem encodeOn_of_decodeOn {v : Byte} {b : Bool} (h : decodeOn v = .ok b) : encodeOn b = v := by
  unfold decodeOn at h
  split at h
  · cases h; simp_all [encodeOn]
  · split at h
    · cases h; simp_all [encodeOn]
    · cases h

end Sys2Proof
end

