-- ==== Sys2Proof/Laws/Memory.lean ====
section
/-! SUPPORT. The framebuffer: the canonical form is kept by every memory operation, read after write, and equality of
canonical memories that read the same. -/

namespace Sys2Proof.Machine

theorem wfFrom_cons {lo i : Nat} {v : Byte} {m : Memory} :
    Memory.wfFrom lo ((i, v) :: m) = true ↔
      lo ≤ i ∧ i < fbBytes ∧ v ≠ unlistedByte ∧ Memory.wfFrom (i + 1) m = true := by
  simp [Memory.wfFrom, and_assoc]

@[simp] theorem wfFrom_nil (lo : Nat) : Memory.wfFrom lo [] = true := rfl

theorem wfFrom_mono {lo lo' : Nat} {m : Memory} (h : Memory.wfFrom lo m = true) (hl : lo' ≤ lo) :
    Memory.wfFrom lo' m = true := by
  cases m with
  | nil => rfl
  | cons c m => obtain ⟨i, v⟩ := c; rw [wfFrom_cons] at *; exact ⟨hl.trans h.1, h.2⟩

@[simp] theorem wf_cleared : Memory.wf Memory.cleared = true := rfl

/-- An index below a canonical memory's first one reads as unlisted. -/
theorem read_below {lo i : Nat} {m : Memory} (h : Memory.wfFrom lo m = true) (hi : i < lo) :
    m.read i = unlistedByte := by
  induction m generalizing lo with
  | nil => rfl
  | cons c m ih =>
    obtain ⟨j, v⟩ := c
    rw [wfFrom_cons] at h
    have hne : i ≠ j := by omega
    simp only [Memory.read, hne, if_false]
    exact ih h.2.2.2 (by omega)

/-- A write inside the index space keeps the canonical form. -/
theorem wfFrom_write {lo i : Nat} {m : Memory} (v : Byte) (h : Memory.wfFrom lo m = true) (hl : lo ≤ i)
    (hi : i < fbBytes) : Memory.wfFrom lo (m.write i v) = true := by
  induction m generalizing lo with
  | nil =>
    unfold Memory.write
    split
    · rfl
    · next hv => exact wfFrom_cons.2 ⟨hl, hi, hv, rfl⟩
  | cons c m ih =>
    obtain ⟨j, w⟩ := c
    have h' := wfFrom_cons.1 h
    unfold Memory.write
    split
    · next hij =>
      split
      · exact h
      · next hv => exact wfFrom_cons.2 ⟨hl, hi, hv, wfFrom_cons.2 ⟨hij, h'.2⟩⟩
    · split
      · next hij =>
        subst hij
        split
        · exact wfFrom_mono h'.2.2.2 (by omega)
        · next hv => exact wfFrom_cons.2 ⟨hl, hi, hv, h'.2.2.2⟩
      · exact wfFrom_cons.2 ⟨h'.1, h'.2.1, h'.2.2.1, ih h'.2.2.2 (by omega)⟩

theorem wf_write {i : Nat} {m : Memory} (v : Byte) (h : m.wf = true) (hi : i < fbBytes) :
    (m.write i v).wf = true :=
  wfFrom_write v h (Nat.zero_le _) hi

/-- A write leaves every other byte alone. -/
theorem read_write_ne {i j : Nat} (m : Memory) (v : Byte) (h : j ≠ i) : (m.write i v).read j = m.read j := by
  induction m with
  | nil => unfold Memory.write; split <;> simp [Memory.read, h]
  | cons c m ih =>
    obtain ⟨k, w⟩ := c
    unfold Memory.write
    split
    · split <;> simp [Memory.read, h]
    · split
      · next hik => subst hik; split <;> simp [Memory.read, h]
      · simp [Memory.read, ih]

/-- A read after a write gives the byte written. -/
theorem read_write_same {lo : Nat} {m : Memory} (h : Memory.wfFrom lo m = true) (i : Nat) (v : Byte) :
    (m.write i v).read i = v := by
  induction m generalizing lo with
  | nil => unfold Memory.write; split <;> simp_all [Memory.read]
  | cons c m ih =>
    obtain ⟨k, w⟩ := c
    have h' := wfFrom_cons.1 h
    unfold Memory.write
    split
    · next hik =>
      split
      · next hv =>
        subst hv
        have hne : i ≠ k := by omega
        simp only [Memory.read, hne, if_false]
        exact read_below h'.2.2.2 (by omega)
      · simp [Memory.read]
    · split
      · next hik =>
        subst hik
        split
        · next hv => subst hv; exact read_below h'.2.2.2 (by omega)
        · simp [Memory.read]
      · next hik => simp only [Memory.read, hik, if_false]; exact ih h'.2.2.2

/-- Read after write, for a canonical memory. -/
theorem read_write {m : Memory} (h : m.wf = true) (i j : Nat) (v : Byte) :
    (m.write i v).read j = if j = i then v else m.read j := by
  split
  · next e => subst e; exact read_write_same h j v
  · next e => exact read_write_ne m v e

/-- Two canonical memories that read the same everywhere are the same data. -/
theorem wfFrom_ext {lo : Nat} {m n : Memory} (hm : Memory.wfFrom lo m = true) (hn : Memory.wfFrom lo n = true)
    (h : ∀ i, m.read i = n.read i) : m = n := by
  induction m generalizing lo n with
  | nil =>
    cases n with
    | nil => rfl
    | cons c n =>
      obtain ⟨j, w⟩ := c
      have := h j
      simp only [Memory.read, if_true] at this
      exact absurd this.symm (wfFrom_cons.1 hn).2.2.1
  | cons c m ih =>
    obtain ⟨i, v⟩ := c
    have hm' := wfFrom_cons.1 hm
    cases n with
    | nil =>
      have := h i
      simp only [Memory.read, if_true] at this
      exact absurd this hm'.2.2.1
    | cons d n =>
      obtain ⟨j, w⟩ := d
      have hn' := wfFrom_cons.1 hn
      have hij : i = j := by
        rcases Nat.lt_trichotomy i j with hlt | heq | hgt
        · have := h i
          rw [read_below (i := i) (lo := j) (m := (j, w) :: n) (wfFrom_cons.2 ⟨le_refl j, hn'.2⟩) hlt] at this
          simp only [Memory.read, if_true] at this
          exact absurd this hm'.2.2.1
        · exact heq
        · have := h j
          rw [read_below (i := j) (lo := i) (m := (i, v) :: m) (wfFrom_cons.2 ⟨le_refl i, hm'.2⟩) hgt] at this
          simp only [Memory.read, if_true] at this
          exact absurd this.symm hn'.2.2.1
      subst hij
      have hvw : v = w := by simpa [Memory.read] using h i
      subst hvw
      congr 1
      refine ih hm'.2.2.2 hn'.2.2.2 fun k => ?_
      have hk := h k
      by_cases hki : k = i
      · subst hki
        rw [read_below hm'.2.2.2 (by omega), read_below hn'.2.2.2 (by omega)]
      · simpa [Memory.read, hki] using hk

theorem wf_ext {m n : Memory} (hm : m.wf = true) (hn : n.wf = true) (h : ∀ i, m.read i = n.read i) : m = n :=
  wfFrom_ext hm hn h

/-- Consecutive writes inside the index space keep the canonical form. -/
theorem wf_writeAll {m : Memory} {i : Nat} (vs : List Byte) (h : m.wf = true) (hi : i + vs.length ≤ fbBytes) :
    (m.writeAll i vs).wf = true := by
  induction vs generalizing m i with
  | nil => exact h
  | cons v vs ih =>
    simp only [List.length_cons] at hi
    exact ih (wf_write v h (by omega)) (by omega)

/-- Everything `memRead` can do inside the index space. -/
theorem memRead_eq {addr n : Nat} (s : State) (h : addr + n ≤ fbBytes) :
    memRead s addr n = .next ((List.range n).map fun j => s.fb.read (addr + j)) := if_pos h

/-- Everything `memWrite` can do inside the index space. -/
theorem memWrite_eq {addr : Nat} {vs : List Byte} (s : State) (h : addr + vs.length ≤ fbBytes) :
    memWrite s addr vs = .next { s with fb := s.fb.writeAll addr vs } := if_pos h

/-- Where `memWrite` answers a next state, it kept the canonical form. -/
theorem memWrite_wf {addr : Nat} {vs : List Byte} {s t : State} (h : memWrite s addr vs = .next t)
    (hw : s.fb.wf = true) : t.fb.wf = true := by
  unfold memWrite at h
  split at h
  · next hr => cases h; exact wf_writeAll vs hw hr
  · cases h

/-! ## Pixels -/

theorem onPanel_iff {x y : Int} : onPanel x y = true ↔ 0 ≤ x ∧ x < 72 ∧ 0 ≤ y ∧ y < 40 := by
  simp [onPanel, and_assoc]

theorem pixelIndex_lt {x y : Nat} (hx : x < 72) (hy : y < 40) : pixelIndex x y < fbBytes := by
  change y / 8 * 72 + x < 360
  omega

/-- Storing a pixel of the panel is one write of one byte. -/
theorem storePixel_eq {x y : Nat} (on : Bool) (s : State) (hx : x < 72) (hy : y < 40) :
    storePixel x y on s =
      .next { s with fb := s.fb.write (pixelIndex x y) (packPixel (s.fb.read (pixelIndex x y)) y on) } := by
  have h := pixelIndex_lt hx hy
  unfold storePixel
  rw [memRead_eq s (by omega)]
  simp only [andThen]
  rw [memWrite_eq s (by simpa using h)]
  simp [Memory.writeAll, List.range_succ]

end Sys2Proof.Machine
end

