-- ==== Sys2Proof/Laws/PerInstr.lean ====
section
/-! SUPPORT. Statements about every instruction, one lemma per constructor. -/

namespace Sys2Proof.Laws.RequestShape

/-- The encoding has the length its format gives (30_encoding.md R64), and an operation's first byte is an assigned op
code (R62). -/
def Statement (i : Instr) : Prop :=
  (encode i).length = byteLength i ∧
    (i.isOperation = true → ∃ f, ((encode i).head?).bind formatOf = some f)

theorem write (addr : BusAddr) (ctrl : Byte) (payload : List Byte) : Statement (.write addr ctrl payload) :=
  ⟨by simp [encode, encodePayload, byteLength]; omega, fun _ => ⟨.f2, rfl⟩⟩

theorem probe (addr : BusAddr) : Statement (.probe addr) := ⟨rfl, fun _ => ⟨.f1, rfl⟩⟩

theorem scan : Statement .scan := ⟨rfl, fun _ => ⟨.f0, rfl⟩⟩

theorem sendCmd (bytes : List Byte) : Statement (.sendCmd bytes) :=
  ⟨by simp [encode, encodePayload, byteLength]; omega, fun _ => ⟨.f3, rfl⟩⟩

theorem sendData (bytes : List Byte) : Statement (.sendData bytes) :=
  ⟨by simp [encode, encodePayload, byteLength]; omega, fun _ => ⟨.f3, rfl⟩⟩

theorem init : Statement .init := ⟨rfl, fun _ => ⟨.f0, rfl⟩⟩

theorem setPixel (x y : Coord) (on : Bool) : Statement (.setPixel x y on) := ⟨rfl, fun _ => ⟨.f4, rfl⟩⟩

theorem clear : Statement .clear := ⟨rfl, fun _ => ⟨.f0, rfl⟩⟩

theorem flush : Statement .flush := ⟨rfl, fun _ => ⟨.f0, rfl⟩⟩

theorem wireAddrByte (a : BusAddr) : Statement (.wireAddrByte a) := ⟨rfl, by simp [Instr.isOperation, Instr.wireSlot]⟩

theorem wireCtrlCmd : Statement .wireCtrlCmd := ⟨rfl, by simp [Instr.isOperation, Instr.wireSlot]⟩

theorem wireCtrlData : Statement .wireCtrlData := ⟨rfl, by simp [Instr.isOperation, Instr.wireSlot]⟩

theorem wireLowCol (l : BitVec 4) : Statement (.wireLowCol l) := ⟨rfl, by simp [Instr.isOperation, Instr.wireSlot]⟩

theorem wireHighCol (h : BitVec 4) : Statement (.wireHighCol h) := ⟨rfl, by simp [Instr.isOperation, Instr.wireSlot]⟩

theorem wirePage (p : BitVec 4) : Statement (.wirePage p) := ⟨rfl, by simp [Instr.isOperation, Instr.wireSlot]⟩

end Sys2Proof.Laws.RequestShape
end

