-- ==== Sys2Proof/Laws/Sequences.lean ====
section
/-! SUPPORT. The loops of SCAN, INIT and FLUSH, each said once: what they submit, where they stop, what they leave. -/

namespace Sys2Proof.Machine

/-! ## Scripts and failures -/

theorem AllAcked.head {e : BusEnv} {n : Nat} (h : AllAcked e (n + 1)) : e.peek 0 = .ack := h 0 (by omega)

theorem AllAcked.tail {e : BusEnv} {n : Nat} (h : AllAcked e (n + 1)) : AllAcked (e.advance 1) n := by
  intro j hj
  rw [peek_advance]
  exact h (1 + j) (by omega)

theorem AllAcked.mono {e : BusEnv} {m n : Nat} (h : AllAcked e n) (hm : m ≤ n) : AllAcked e m :=
  fun j hj => h j (by omega)

/-- A failure at frame n + 1 is an acknowledged frame and then a failure at frame n. -/
theorem FirstFailure.succ {e : BusEnv} {n : Nat} {c : Cause} (h : FirstFailure e (n + 1) c) :
    e.peek 0 = .ack ∧ FirstFailure (e.advance 1) n c := by
  refine ⟨h.1.head, h.1.tail, ?_⟩
  rw [peek_advance, Nat.add_comm]
  exact h.2

theorem FirstFailure.zero {e : BusEnv} {c : Cause} (h : FirstFailure e 0 c) : causeOf (e.peek 0) = some c := h.2

/-- Of any n frames, either all are acknowledged or one is the first that is not. -/
theorem allAcked_or_firstFailure (e : BusEnv) (n : Nat) :
    AllAcked e n ∨ ∃ m c, m < n ∧ FirstFailure e m c := by
  induction n generalizing e with
  | zero => left; intro j hj; omega
  | succ n ih =>
    cases h0 : causeOf (e.peek 0) with
    | some c => exact .inr ⟨0, c, by omega, fun j hj => by omega, h0⟩
    | none =>
      rw [causeOf_eq_none] at h0
      rcases ih (e.advance 1) with h | ⟨m, c, hm, ha, hf⟩
      · left
        intro j hj
        cases j with
        | zero => exact h0
        | succ j => have := h j (by omega); rwa [peek_advance, Nat.add_comm] at this
      · refine .inr ⟨m + 1, c, by omega, fun j hj => ?_, ?_⟩
        · cases j with
          | zero => exact h0
          | succ j => have := ha j (by omega); rwa [peek_advance, Nat.add_comm] at this
        · rwa [peek_advance, Nat.add_comm] at hf

/-! ## A sequence of write frames that stops at the first failure -/

/-- The frames submitted one after another, up to and including the first that is not acknowledged. -/
def sendFrames : List Frame → State → State × Option Cause
  | [], s => (s, none)
  | f :: fs, s =>
    match causeOf (s.bus.peek 0) with
    | none => sendFrames fs (s.logged f .write)
    | some c => (s.logged f .write, some c)

/-- A state but for its sequencer, which the end of an operation resets. -/
def State.noSeq (s : State) : State := { s with seq := .idle }

theorem noSeq_eq_iff {s t : State} : s.noSeq = t.noSeq ↔
    s.fb = t.fb ∧ s.initState = t.initState ∧ s.log = t.log ∧ s.cfg = t.cfg ∧ s.inputs = t.inputs ∧
      s.responses = t.responses ∧ s.bus = t.bus := by
  cases s; cases t; simp [State.noSeq]

/-- The end of an operation does not see the sequencer. -/
theorem respondWith_congr {s t : State} (r : Response) (h : s.noSeq = t.noSeq) : respondWith r s = respondWith r t := by
  rw [noSeq_eq_iff] at h
  obtain ⟨h1, h2, h3, h4, h5, h6, h7⟩ := h
  simp [respondWith, h1, h2, h3, h4, h5, h6, h7]

theorem respondWith_noSeq (r : Response) (s : State) : respondWith r s = respondWith r s.noSeq := rfl

theorem sendFrames_append (fs gs : List Frame) (s : State) :
    sendFrames (fs ++ gs) s =
      match sendFrames fs s with
      | (t, none) => sendFrames gs t
      | (t, some c) => (t, some c) := by
  induction fs generalizing s with
  | nil => rfl
  | cons f fs ih =>
    simp only [List.cons_append, sendFrames]
    cases causeOf (s.bus.peek 0) with
    | none => exact ih _
    | some c => rfl

/-- Sending sees nothing of the sequencer. -/
theorem sendFrames_noSeq (fs : List Frame) {s t : State} (h : s.noSeq = t.noSeq) :
    (sendFrames fs s).1.noSeq = (sendFrames fs t).1.noSeq ∧ (sendFrames fs s).2 = (sendFrames fs t).2 := by
  induction fs generalizing s t with
  | nil => exact ⟨h, rfl⟩
  | cons f fs ih =>
    have hb : s.bus = t.bus := (noSeq_eq_iff.1 h).2.2.2.2.2.2
    have hl : (s.logged f .write).noSeq = (t.logged f .write).noSeq := by
      rw [noSeq_eq_iff] at *
      simp [h]
    simp only [sendFrames, hb]
    cases causeOf (t.bus.peek 0) with
    | none => exact ih hl
    | some c => exact ⟨hl, rfl⟩

/-- Sending changes only LOG, the bus environment and the sequencer. -/
theorem sendFrames_frame (fs : List Frame) (s : State) :
    (sendFrames fs s).1.fb = s.fb ∧ (sendFrames fs s).1.cfg = s.cfg ∧ (sendFrames fs s).1.initState = s.initState ∧
      (sendFrames fs s).1.inputs = s.inputs ∧ (sendFrames fs s).1.responses = s.responses := by
  induction fs generalizing s with
  | nil => simp [sendFrames]
  | cons f fs ih =>
    simp only [sendFrames]
    cases causeOf (s.bus.peek 0) with
    | none => simpa using ih (s.logged f .write)
    | some c => simp

/-- All acknowledged: every frame is in LOG with ACK. -/
theorem sendFrames_acked {fs : List Frame} {s : State} (h : AllAcked s.bus fs.length) :
    (sendFrames fs s).2 = none ∧
      (sendFrames fs s).1.noSeq =
        { s with log := s.log ++ ackedEntries fs, bus := s.bus.advance fs.length, seq := .idle } := by
  induction fs generalizing s with
  | nil => simp [sendFrames, ackedEntries, State.noSeq]
  | cons f fs ih =>
    have h0 := h.head
    have hn : causeOf (s.bus.peek 0) = none := causeOf_eq_none.2 h0
    simp only [sendFrames, hn]
    obtain ⟨h1, h2⟩ := ih (s := s.logged f .write) h.tail
    refine ⟨h1, h2.trans ?_⟩
    simp [ackedEntries, State.logged, h0, Nat.add_comm]

/-- The first failure ends the sequence: the frames before it with ACK, then it. -/
theorem sendFrames_failed {fs : List Frame} {s : State} {n : Nat} {c : Cause} (hn : n < fs.length)
    (h : FirstFailure s.bus n c) :
    (sendFrames fs s).2 = some c ∧
      (sendFrames fs s).1.noSeq =
        { s with
          log := s.log ++ (ackedEntries (fs.take n) ++ [⟨fs[n], .write, s.bus.peek n⟩])
          bus := s.bus.advance (n + 1)
          seq := .idle } := by
  induction fs generalizing s n with
  | nil => simp at hn
  | cons f fs ih =>
    cases n with
    | zero =>
      have h0 := h.zero
      simp [sendFrames, h0, ackedEntries, State.logged, State.noSeq]
    | succ n =>
      obtain ⟨h0, ht⟩ := h.succ
      have hc : causeOf (s.bus.peek 0) = none := causeOf_eq_none.2 h0
      simp only [sendFrames, hc]
      obtain ⟨h1, h2⟩ := ih (s := s.logged f .write) (by simpa using hn) ht
      refine ⟨h1, h2.trans ?_⟩
      simp [ackedEntries, State.logged, h0, Nat.add_comm]

/-! ## SCAN -/

/-- SCAN's loop: one probe per address with its outcome, and the bits of those that acknowledged. -/
theorem scanLoop_eq (addrs : List BusAddr) (present : BitVec 128) (s : State) :
    (scanLoop addrs present s).2.noSeq =
      { s with
        log := s.log ++ scanEntries s.bus addrs
        bus := s.bus.advance addrs.length
        seq := .idle } ∧
    ∀ i, (scanLoop addrs present s).1.getLsbD i =
      (present.getLsbD i || (List.range addrs.length).any fun j =>
        decide ((addrs[j]?).map (·.toNat) = some i ∧ s.bus.peek j = .ack)) := by
  induction addrs generalizing present s with
  | nil => simp [scanLoop, scanEntries, State.noSeq]
  | cons a rest ih =>
    have hlog : ∀ p, (scanLoop rest p ((s.atAddr a.toNat).logged (probeFrame a) .probe)).2.noSeq =
        { s with
          log := s.log ++ scanEntries s.bus (a :: rest)
          bus := s.bus.advance (a :: rest).length
          seq := .idle } := by
      intro p
      rw [(ih p _).1]
      simp [scanEntries, State.logged, State.atAddr, Nat.add_comm, List.mapIdx_cons]
    have hbits : ∀ p i, (scanLoop rest p ((s.atAddr a.toNat).logged (probeFrame a) .probe)).1.getLsbD i =
        (p.getLsbD i || (List.range rest.length).any fun j =>
          decide ((rest[j]?).map (·.toNat) = some i ∧ s.bus.peek (j + 1) = .ack)) := by
      intro p i
      rw [(ih p _).2]
      simp [Nat.add_comm]
    unfold scanLoop
    rw [probeTxn_eq]
    simp only [atAddr_bus]
    cases hc : causeOf (s.bus.peek 0) with
    | none =>
      refine ⟨hlog _, fun i => ?_⟩
      rw [causeOf_eq_none] at hc
      rw [hbits]
      have ha := a.isLt
      by_cases hi : i = a.toNat
      · subst hi
        have hlt : a.toNat < 128 := ha
        simp [markPresent, List.range_succ_eq_map, hc, hlt]
      · have hne : ¬ a.toNat = i := fun e => hi e.symm
        have h1 : (1#128 <<< a.toNat).getLsbD i = false := by
          rw [BitVec.getLsbD_shiftLeft]
          by_cases hlt : i < a.toNat
          · simp [hlt]
          · have h0 : i - a.toNat ≠ 0 := by omega
            simp [h0]
        simp [markPresent, List.range_succ_eq_map, hc, h1, hne, Function.comp_def, List.any_map]
    | some c =>
      refine ⟨hlog _, fun i => ?_⟩
      have hne : s.bus.peek 0 ≠ .ack := fun e => by simp [e, causeOf] at hc
      rw [hbits]
      simp [List.range_succ_eq_map, hne, Function.comp_def, List.any_map]

/-! ## INIT -/

/-- The frames of a list of init steps. -/
def stepFrames (addr : BusAddr) (steps : List (StepNo × List Byte)) : List Frame :=
  steps.map fun st => writeFrame addr ctrlCmd st.2

/-- INIT's loop where every step is acknowledged. -/
theorem initLoop_acked {steps : List (StepNo × List Byte)} {s : State} (hne : ∀ st ∈ steps, st.2 ≠ [])
    (h : AllAcked s.bus steps.length) :
    initLoop steps s =
      initReady
        { s with
          log := s.log ++ ackedEntries (stepFrames s.params.panelAddr steps)
          bus := s.bus.advance steps.length } := by
  induction steps generalizing s with
  | nil => simp [initLoop, ackedEntries, stepFrames]
  | cons st rest ih =>
    obtain ⟨k, bytes⟩ := st
    have h0 := h.head
    have hc : causeOf (s.bus.peek 0) = none := causeOf_eq_none.2 h0
    have hb : bytes ≠ [] := hne (k, bytes) (by simp)
    simp only [initLoop, panelSend_eq _ _ hb, atStep_bus, hc]
    rw [ih (fun st hst => hne st (by simp [hst])) (by simpa using h.tail)]
    simp [initReady, respond, respondWith, State.logged, State.atStep, State.params, stepFrames, ackedEntries, h0,
      Nat.add_comm]

/-- INIT's loop where step n of the list (from 0) is the first that fails. -/
theorem initLoop_failed {steps : List (StepNo × List Byte)} {s : State} {n : Nat} {c : Cause}
    (hne : ∀ st ∈ steps, st.2 ≠ []) (hn : n < steps.length) (h : FirstFailure s.bus n c) :
    initLoop steps s =
      initFailed steps[n].1 c
        { s with
          log := s.log ++ (ackedEntries ((stepFrames s.params.panelAddr steps).take n) ++
            [⟨writeFrame s.params.panelAddr ctrlCmd steps[n].2, .write, s.bus.peek n⟩])
          bus := s.bus.advance (n + 1) } := by
  induction steps generalizing s n with
  | nil => simp at hn
  | cons st rest ih =>
    obtain ⟨k, bytes⟩ := st
    have hb : bytes ≠ [] := hne (k, bytes) (by simp)
    simp only [initLoop, panelSend_eq _ _ hb, atStep_bus]
    cases n with
    | zero =>
      simp only [h.zero]
      simp [initFailed, respond, respondWith, State.logged, State.atStep, State.params, stepFrames, ackedEntries]
    | succ n =>
      obtain ⟨h0, ht⟩ := h.succ
      have hc : causeOf (s.bus.peek 0) = none := causeOf_eq_none.2 h0
      simp only [hc]
      rw [ih (n := n) (fun st hst => hne st (by simp [hst])) (by simpa using hn) (by simpa using ht)]
      simp [initFailed, respond, respondWith, State.logged, State.atStep, State.params, stepFrames, ackedEntries, h0,
        Nat.add_comm]

/-! ## The configuration -/

/-- What a well-formed configuration says of INIT_TABLE (30_encoding.md R81). -/
theorem initTable_wf (s : State) :
    s.params.initTable.length = 18 ∧ (∀ st ∈ s.params.initTable, st ≠ []) ∧
      (∀ st ∈ s.params.initTable, st.length ≤ s.params.maxPayload) := by
  have h : s.params.wellFormed = true := s.cfg.property
  simp only [Params.wellFormed, Bool.and_eq_true, List.all_eq_true, beq_iff_eq] at h
  refine ⟨h.1.1.1, fun st hst => ?_, fun st hst => ?_⟩
  · have := (h.1.1.2 st hst).1
    simpa [List.isEmpty_iff] using this
  · simpa using (h.1.1.2 st hst).2

theorem initTable_flatten_ne (s : State) : s.params.initTable.flatten ≠ [] := by
  obtain ⟨hlen, hne, -⟩ := initTable_wf s
  cases ht : s.params.initTable with
  | nil => simp [ht] at hlen
  | cons a rest =>
    have := hne a (by simp [ht])
    simp [this]

@[simp] theorem initSteps_length (s : State) : (initSteps s.params).length = 18 := by
  simp [initSteps, (initTable_wf s).1]

theorem initSteps_get (s : State) {n : Nat} (hn : n < 18) :
    ∃ h1 : n < (initSteps s.params).length, ∃ h2 : n < s.params.initTable.length,
      (initSteps s.params)[n] = (Fin.ofNat 19 (n + 1), s.params.initTable[n]) := by
  have hl := (initTable_wf s).1
  refine ⟨by simpa using hn, by omega, ?_⟩
  simp [initSteps]

theorem initSteps_ne (s : State) : ∀ st ∈ initSteps s.params, st.2 ≠ [] := by
  intro st hst
  exact (initTable_wf s).2.1 _ (List.of_mem_zip hst).2

theorem stepFrames_initSteps (s : State) :
    stepFrames s.params.panelAddr (initSteps s.params) =
      s.params.initTable.map (writeFrame s.params.panelAddr ctrlCmd) := by
  have h : (initSteps s.params).map Prod.snd = s.params.initTable :=
    List.map_snd_zip (by simp [(initTable_wf s).1])
  calc stepFrames s.params.panelAddr (initSteps s.params)
      = ((initSteps s.params).map Prod.snd).map (writeFrame s.params.panelAddr ctrlCmd) := by
        simp [stepFrames, Function.comp_def]
    _ = _ := by rw [h]

/-! ## FLUSH -/

/-- Sending bytes one by one is sending their one-byte frames. -/
theorem panelSendEach_eq (ctrl : Byte) (vs : List Byte) (s : State) :
    panelSendEach ctrl vs s = sendFrames (vs.map fun v => writeFrame s.params.panelAddr ctrl [v]) s := by
  induction vs generalizing s with
  | nil => rfl
  | cons v vs ih =>
    simp only [panelSendEach, panelSend_eq ctrl s (List.cons_ne_nil v []), List.map_cons, sendFrames]
    cases causeOf (s.bus.peek 0) with
    | none => exact ih _
    | some c => rfl

/-- A page's addressing is its command frames. -/
theorem sendAddressing_eq (n : Nat) (s : State) :
    sendAddressing n s = sendFrames (addressingFrames s.params n) s := by
  unfold sendAddressing addressingFrames
  cases s.params.flushFraming with
  | triplet =>
    simp only [addressingTriplet, panelSend_eq ctrlCmd s (List.cons_ne_nil _ _), sendFrames]
    cases causeOf (s.bus.peek 0) <;> rfl
  | separate => exact panelSendEach_eq ctrlCmd (addressingTriplet n) s

/-- The 72 bytes of page n. -/
def pageBytes (m : Memory) (n : Nat) : List Byte := (List.range width).map fun j => m.read (n * width + j)

theorem pageBytes_ne (m : Memory) (n : Nat) : pageBytes m n ≠ [] := by
  intro e
  have := congrArg List.length e
  simp [pageBytes] at this

/-- Reading pages of the framebuffer answers their bytes. -/
theorem readPages_eq {ns : List Nat} (hns : ∀ n ∈ ns, n < 5) (s : State) :
    readPages s ns = .next (ns.map fun n => (n, pageBytes s.fb n)) := by
  induction ns with
  | nil => rfl
  | cons n ns ih =>
    have hn := hns n (by simp)
    have hr : memRead s (n * width) width = .next (pageBytes s.fb n) :=
      memRead_eq s (by change n * 72 + 72 ≤ 360; omega)
    simp only [readPages, hr, ih (fun m hm => hns m (by simp [hm])), andThen, List.map_cons]

/-- A page is its addressing frames and its data frame. -/
theorem sendPage_eq (n : Nat) (bytes : List Byte) (h : bytes ≠ []) (s : State) :
    sendPage n bytes s =
      sendFrames (addressingFrames s.params n ++ [writeFrame s.params.panelAddr ctrlData bytes]) (s.atPage n) := by
  unfold sendPage
  rw [sendAddressing_eq, sendFrames_append, atPage_params]
  have hf := sendFrames_frame (addressingFrames s.params n) (s.atPage n)
  cases hs : sendFrames (addressingFrames s.params n) (s.atPage n) with
  | mk t o =>
    rw [hs] at hf
    cases o with
    | some c => rfl
    | none =>
      have hp : t.params = s.params := congrArg Subtype.val hf.2.1
      simp only [panelSend_eq ctrlData t h, sendFrames, hp]
      cases causeOf (t.bus.peek 0) <;> rfl

/-- The pages of FLUSH are their frames, up to the sequencer's page counter. -/
theorem sendPages_eq (ns : List Nat) (m : Memory) (s : State) :
    (sendPages (ns.map fun n => (n, pageBytes m n)) s).2 =
        (sendFrames (ns.flatMap fun n => addressingFrames s.params n ++ [dataFrame s.params m n]) s).2 ∧
      (sendPages (ns.map fun n => (n, pageBytes m n)) s).1.noSeq =
        (sendFrames (ns.flatMap fun n => addressingFrames s.params n ++ [dataFrame s.params m n]) s).1.noSeq := by
  induction ns generalizing s with
  | nil => exact ⟨rfl, rfl⟩
  | cons n ns ih =>
    have hpage : sendPage n (pageBytes m n) s =
        sendFrames (addressingFrames s.params n ++ [dataFrame s.params m n]) (s.atPage n) :=
      sendPage_eq n _ (pageBytes_ne m n) s
    simp only [sendPages, List.map_cons, List.flatMap_cons, hpage]
    generalize addressingFrames s.params n ++ [dataFrame s.params m n] = fs at *
    have hseq := sendFrames_noSeq fs (s := s.atPage n) (t := s) rfl
    have hfr := sendFrames_frame fs (s.atPage n)
    rw [sendFrames_append fs _ s]
    cases h1 : sendFrames fs (s.atPage n) with
    | mk t o =>
      cases h2 : sendFrames fs s with
      | mk t' o' =>
        rw [h1, h2] at hseq
        rw [h1] at hfr
        obtain ⟨hst, ho⟩ := hseq
        simp only at ho hst hfr
        subst ho
        cases o with
        | some c => exact ⟨rfl, hst⟩
        | none =>
          have hp : t.params = s.params := congrArg Subtype.val hfr.2.1
          have hrec := ih t
          rw [hp] at hrec
          have hcong := sendFrames_noSeq
            (ns.flatMap fun n => addressingFrames s.params n ++ [dataFrame s.params m n]) hst
          exact ⟨hrec.1.trans hcong.2, hrec.2.trans hcong.1⟩

/-- FLUSH's frames are those of its page range. -/
theorem flushFrames_eq (p : Params) (m : Memory) :
    (pageRange.flatMap fun n => addressingFrames p n ++ [dataFrame p m n]) = flushFrames p m := rfl

/-- FLUSH with the latch clear is its frames and the status of the first failure. -/
theorem execFlush_eq {s : State} (h : s.initState.state ≠ .failed) :
    execFlush s =
      .next (respondTxn (sendFrames (flushFrames s.params s.fb) s)) := by
  have hl : latchCheck s = none := if_neg h
  obtain ⟨h2, h1⟩ := sendPages_eq pageRange s.fb s
  rw [flushFrames_eq] at h1 h2
  have hr := readPages_eq (ns := pageRange) (fun n hn => List.mem_range.1 hn) s
  simp only [execFlush, hl, hr, andThen]
  congr 1
  unfold respondTxn
  rw [h2]
  exact respondWith_congr _ h1

end Sys2Proof.Machine
end

