-- ==== Sys2Proof/Tests/Slice0.lean ====
section
/-! SUPPORT. The package's own tests. Expected values come from spec/95_test_vectors.md (V and E numbers) or, for a word
written out bit by bit, from the encoding tables of spec/30_encoding.md. The last part has, for every statement with
hypotheses, states and operands that meet them. -/

namespace Sys2Proof.Tests

open Sys2Proof Sys2Proof.Machine

/-! ## Helpers -/

/-- The reset state with the bus answering as given. -/
def answering (os : List BusOutcome) : State := { State.reset with bus := ⟨os, 0⟩ }

/-- The latched state of V25, INIT_STATE = 0x0066, with the bus answering as given. -/
def latched (os : List BusOutcome) : State := { answering os with initState := ⟨.failed, some .nack, 6⟩ }

/-- The default build with INIT_FRAMING = SINGLE. -/
def singleBuild : Config := ⟨{ Params.default with initFraming := .single }, by decide⟩

/-- The default build with FLUSH_CMD_FRAMING = SEPARATE. -/
def separateBuild : Config := ⟨{ Params.default with flushFraming := .separate }, by decide⟩

/-- n acknowledged frames. -/
def acks (n : Nat) : List BusOutcome := List.replicate n .ack

/-- Does the outcome give a next state with the property? -/
def gives (o : Host.Outcome State Fault Refusal) (p : State → Bool) : Bool :=
  match o with
  | .next t => p t
  | .fault _ => false
  | .refused _ => false

theorem next_of_gives {o : Host.Outcome State Fault Refusal} {p : State → Bool} (h : gives o p = true) :
    ∃ t, o = .next t ∧ p t = true := by
  cases o with
  | next t => exact ⟨t, rfl, h⟩
  | fault r => cases h
  | refused r => cases h

/-- The bytes of the last response. -/
def lastResponse (s : State) : List Byte := ((s.responses.getLast?).map encodeResponse).getD []

/-- LOG as written frames. -/
def logText (s : State) : List String := s.log.map fun e => frameText e.frame

/-- The test font of 95_test_vectors.md part 2.7. -/
def testFont : Font := fun c r => if c = 0x41 then 0xFF else if c = 0x42 ∧ r = 0 then 0x80 else 0x00

/-! ## Well-formedness: one ill-formed term per check -/

/-- R65 (d): a payload longer than MAX_PAYLOAD (V22's limit of 4). -/
theorem test_illformed_payload_over_limit : (Instr.sendCmd (List.replicate 5 0xAE)).wellFormed 4 = false := by decide

theorem test_illformed_write_payload_over_limit :
    (Instr.write 0x3C 0x00 (List.replicate 5 0xAE)).wellFormed 4 = false := by decide

theorem test_illformed_data_payload_over_limit : (Instr.sendData (List.replicate 5 0xAE)).wellFormed 4 = false := by
  decide

/-- R63: L has 16 bits, whatever MAX_PAYLOAD is. -/
theorem test_illformed_payload_over_16_bits :
    ∃ payload : List Byte, payload.length = 65536 ∧ (Instr.sendCmd payload).wellFormed 100000 = false := by
  refine ⟨List.replicate 65536 0x00, List.length_replicate, ?_⟩
  simp only [Instr.wellFormed, payloadFits, List.length_replicate]
  decide

/-- R81: 18 entries exactly. -/
theorem test_illformed_table_of_17_steps :
    ({ Params.default with initTable := defaultInitTable.drop 1 } : Params).configure = none := by decide

/-- R81: no entry is empty. -/
theorem test_illformed_table_with_empty_step :
    ({ Params.default with initTable := defaultInitTable.set 6 [] } : Params).configure = none := by decide

/-- R81: no entry is longer than MAX_PAYLOAD. -/
theorem test_illformed_table_with_long_step :
    ({ Params.default with maxPayload := 72, initTable := defaultInitTable.set 6 (List.replicate 73 0x40) } : Params).configure
      = none := by decide

/-- R81: under SINGLE the concatenation fits MAX_PAYLOAD; the same table is well-formed under PER_STEP. -/
theorem test_illformed_single_table_too_long :
    ({ Params.default with
        maxPayload := 72, initFraming := .single, initTable := defaultInitTable.set 6 (List.replicate 46 0x40) } : Params).configure
      = none ∧
    ({ Params.default with
        maxPayload := 72, initFraming := .perStep, initTable := defaultInitTable.set 6 (List.replicate 46 0x40) } : Params).wellFormed
      = true := by decide

/-- R7: MAX_PAYLOAD ≥ WIDTH. -/
theorem test_illformed_limit_below_width : ({ Params.default with maxPayload := 71 } : Params).configure = none := by decide

theorem test_default_build_is_wellformed : Params.default.configure = some defaultConfig := by decide

/-! ## Decoding: words written out from the encoding tables -/

/-- V6: WRITE, F2, op 0x01. -/
theorem test_decode_write :
    decode 65535 [0b00000001, 0b00111100, 0b01000000, 0b00000001, 0b00000000, 0b11111111]
      = .ok (.write 0b0111100 0b01000000 [0b11111111]) := by decide

/-- V5: PROBE, F1, op 0x02. -/
theorem test_decode_probe : decode 65535 [0b00000010, 0b00111100] = .ok (.probe 0b0111100) := by decide

/-- V1: SCAN, F0, op 0x03. -/
theorem test_decode_scan : decode 65535 [0b00000011] = .ok .scan := by decide

/-- V7: SEND_CMD, F3, op 0x10. -/
theorem test_decode_sendCmd :
    decode 65535 [0b00010000, 0b00000010, 0b00000000, 0b10000001, 0b01111111]
      = .ok (.sendCmd [0b10000001, 0b01111111]) := by decide

/-- V8: SEND_DATA, F3, op 0x11. -/
theorem test_decode_sendData : decode 65535 [0b00010001, 0b00000000, 0b00000000] = .ok (.sendData []) := by decide

/-- V2: INIT, F0, op 0x12. -/
theorem test_decode_init : decode 65535 [0b00010010] = .ok .init := by decide

/-- V9, V11, V12: SET_PIXEL, F4, op 0x20; x = 5, 32767, -32768. -/
theorem test_decode_setPixel :
    decode 65535 [0b00100000, 0b00000101, 0b00000000, 0b00001010, 0b00000000, 0b00000001] = .ok (.setPixel 5 10 true) ∧
      decode 65535 [0x20, 0xFF, 0x7F, 0x05, 0x00, 0x01] = .ok (.setPixel 32767 5 true) ∧
      decode 65535 [0x20, 0x00, 0x80, 0x05, 0x00, 0x01] = .ok (.setPixel (-32768) 5 true) := by decide

/-- V3: CLEAR, F0, op 0x21. -/
theorem test_decode_clear : decode 65535 [0b00100001] = .ok .clear := by decide

/-- V4: FLUSH, F0, op 0x30. -/
theorem test_decode_flush : decode 65535 [0b00110000] = .ok .flush := by decide

/-- V13 to V24: the illegal requests, each by its check. -/
theorem test_decode_illegal :
    decode 65535 [0x00] = .error .unassignedOp ∧ decode 65535 [0x04] = .error .unassignedOp ∧
      decode 65535 [0xFF] = .error .unassignedOp ∧ decode 65535 [0x03, 0x00] = .error .wrongLength ∧
      decode 65535 [0x02] = .error .wrongLength ∧
      decode 65535 [0x01, 0x3C, 0x00, 0x02, 0x00, 0xAE] = .error .wrongLength ∧
      decode 65535 [0x11, 0x01, 0x00, 0xFF, 0xEE] = .error .wrongLength ∧
      decode 65535 [0x02, 0xBC] = .error .addressBit7 ∧
      decode 65535 [0x01, 0xFC, 0x00, 0x01, 0x00, 0xAE] = .error .addressBit7 ∧
      decode 4 [0x10, 0x05, 0x00, 0xAE, 0xAE, 0xAE, 0xAE, 0xAE] = .error .payloadTooLong ∧
      decode 65535 [0x20, 0x05, 0x00, 0x0A, 0x00, 0x02] = .error .badOn ∧
      decode 65535 [0x20, 0x05, 0x00, 0x0A, 0x00] = .error .wrongLength := by decide

/-- R71, R72, R75 to R77 and V27, V35: the six wire patterns in their places. -/
theorem test_decode_wire :
    decodeWire .address 0b01111000 = some (.wireAddrByte 0b0111100) ∧
      decodeWire .control 0b00000000 = some .wireCtrlCmd ∧ decodeWire .control 0b01000000 = some .wireCtrlData ∧
      decodeWire .lowColumn 0b00001100 = some (.wireLowCol 0b1100) ∧
      decodeWire .highColumn 0b00010001 = some (.wireHighCol 0b0001) ∧
      decodeWire .page 0b10110100 = some (.wirePage 0b0100) := by decide

/-- A byte that breaks the pattern of its place is refused: W = 1, another control byte, another high nibble. -/
theorem test_decode_wire_refuses :
    decodeWire .address 0x79 = none ∧ decodeWire .control 0x80 = none ∧ decodeWire .lowColumn 0x1C = none ∧
      decodeWire .highColumn 0x21 = none ∧ decodeWire .page 0xA4 = none := by decide

/-- The table word of V9, its six bytes, and one of which only byte 0 is given: operand bytes of zeros. -/
theorem test_tableWord_setPixel :
    decodeTableWord 48 0x01000A000520 = some (.setPixel 5 10 true) ∧ decodeTableWord 8 0x20 = some (.setPixel 0 0 false) ∧
      decodeTableWord 8 0x01 = some (.write 0 0 []) ∧ decodeTableWord 8 0x00 = none := by decide

/-- R66: the responses of V26 and V61. -/
theorem test_encode_response :
    encodeResponse ⟨.initError 18 (some .timeout), none⟩ = [0x03, 0x12, 0x02] ∧
      encodeResponse ⟨.busError .nack, none⟩ = [0x01] := by decide

/-- R24, the INIT_STATE arithmetic of part 2.4. -/
theorem test_initState_words :
    (InitState.mk .failed (some .nack) 6).toWord = 0x0066 ∧ (InitState.mk .failed (some .timeout) 18).toWord = 0x012A ∧
      (InitState.mk .failed (some .timeout) 3).toWord = 0x003A ∧ (InitState.mk .ready none 0).toWord = 0x0001 := by decide

/-- R67: requests as text. -/
theorem test_assembly :
    assemblyLine (.write 0x3C 0x40 [0xFF]) = "WRITE 0x3C, 0x40, [0xFF]" ∧
      assemblyLine (.setPixel (-1) 0 true) = "SET_PIXEL -1, 0, 1" ∧ assemblyLine (.sendCmd [0xAF]) = "SEND_CMD [0xAF]" := by
  decide

/-! ## Frames -/

/-- V27 to V32. -/
theorem test_addrByte :
    addrByte 0x3C = 0x78 ∧ addrByte 0x3D = 0x7A ∧ addrByte 0x00 = 0x00 ∧ addrByte 0x03 = 0x06 ∧ addrByte 0x77 = 0xEE ∧
      addrByte 0x7F = 0xFE := by decide

/-- V33, V34. -/
theorem test_frames :
    frameText (writeFrame 0x3C 0x00 [0x0C, 0x11, 0xB2]) = "S 78 00 0C 11 B2 P" ∧ frameText (probeFrame 0x03) = "S 06 P" := by
  decide

/-- V35. -/
theorem test_panel_command_bytes : lowColCmd 28 = 0x0C ∧ highColCmd 28 = 0x11 ∧ pageCmd 4 = 0xB4 := by decide

/-! ## One step of each operation -/

/-- V61. -/
theorem test_write_nack :
    gives (exec (.write 0x3C 0x00 [0xAE]) (answering [.nack])) (fun t =>
      lastResponse t == [0x01] && logText t == ["S 78 00 AE P"]) = true := by decide

/-- V64 and, with no frame, V63. -/
theorem test_write_any_address_and_zero_length :
    gives (exec (.write 0x01 0x80 [0x12, 0x34]) (answering [.ack])) (fun t => logText t == ["S 02 80 12 34 P"]) = true ∧
      gives (exec (.write 0x3C 0x00 []) State.reset) (fun t => lastResponse t == [0x00] && t.log == []) = true := by decide

/-- V68. -/
theorem test_probe_timeout :
    gives (exec (.probe 0x3C) (answering [.timeout])) (fun t =>
      lastResponse t == [0x02] && t.log == [⟨[.start, .byte 0x78, .stop], .probe, .timeout⟩]) = true := by decide

/-- V66. -/
theorem test_probe_ack :
    gives (exec (.probe 0x3C) (answering [.ack])) (fun t => lastResponse t == [0x00]) = true := by decide

/-- V69c: 0x03, 0x3C, 0x3D and 0x77 answer, the others time out. -/
theorem test_scan_bitmap :
    gives (exec .scan (answering ((List.range 117).map fun j => if j ∈ [0, 57, 58, 116] then .ack else .timeout))) (fun t =>
      lastResponse t == [0x00, 0x08, 0x00, 0x00, 0x00, 0x00, 0x00, 0x00, 0x30, 0x00, 0x00, 0x00, 0x00, 0x00, 0x00, 0x80, 0x00])
      = true := by decide +kernel

/-- V69d's count, first and last probe. -/
theorem test_scan_log :
    gives (exec .scan (answering (acks 117))) (fun t =>
      t.log.length == 117 && (logText t).head? == some "S 06 P" && (logText t).getLast? == some "S EE P") = true := by
  decide +kernel

/-- V115 without its INIT: SEND_CMD's failure leaves INIT_STATE. -/
theorem test_sendCmd_nack :
    gives (exec (.sendCmd [0xAF]) (answering [.nack])) (fun t =>
      lastResponse t == [0x01] && logText t == ["S 78 00 AF P"] && t.initState.toWord == 0x0000) = true := by decide

/-- V117. -/
theorem test_sendCmd_latched :
    gives (exec (.sendCmd [0xAF]) (latched [])) (fun t => lastResponse t == [0x03, 0x06, 0x01] && t.log == []) = true := by
  decide

/-- V116. -/
theorem test_sendData_nack :
    gives (exec (.sendData [0x01, 0x80]) (answering [.nack])) (fun t =>
      lastResponse t == [0x01] && logText t == ["S 78 40 01 80 P"]) = true := by decide

/-- V118: the latch comes before the zero-length rule. -/
theorem test_sendData_empty_latched :
    gives (exec (.sendData []) (latched [])) (fun t => lastResponse t == [0x03, 0x06, 0x01]) = true := by decide

/-- V36: step 6 fails. -/
theorem test_init_step6_nack :
    gives (exec .init (answering (acks 5 ++ [.nack]))) (fun t =>
      lastResponse t == [0x03, 0x06, 0x01] && t.initState.toWord == 0x0066 &&
        logText t == ["S 78 00 AE P", "S 78 00 D5 80 P", "S 78 00 A8 27 P", "S 78 00 D3 00 P", "S 78 00 AD 30 P",
          "S 78 00 8D 14 P"]) = true := by decide +kernel

/-- V112: SINGLE. -/
theorem test_init_single :
    gives (exec .init { answering [.ack] with cfg := singleBuild }) (fun t =>
      t.initState.toWord == 0x0001 &&
        logText t == ["S 78 00 AE D5 80 A8 27 D3 00 AD 30 8D 14 40 A6 A4 20 00 A1 C8 DA 12 81 7F D9 22 DB 20 2E AF P"])
      = true := by decide +kernel

/-- V42, V43, V46: the last rows and the page boundary. -/
theorem test_setPixel_bytes :
    gives (exec (.setPixel 0 39 true) State.reset) (fun t => t.fb == [(288, 0x80)]) = true ∧
      gives (exec (.setPixel 71 39 true) State.reset) (fun t => t.fb == [(359, 0x80)]) = true ∧
      gives (exec (.setPixel 0 8 true) State.reset) (fun t => t.fb == [(72, 0x01)]) = true := by decide

/-- V52 on the one byte it names, and V48 to V51: clipping. -/
theorem test_setPixel_clear_and_clip :
    gives (exec (.setPixel 5 10 false) { State.reset with fb := [(77, 0xFF)] }) (fun t => t.fb == [(77, 0xFB)]) = true ∧
      gives (exec (.setPixel 72 0 true) State.reset) (fun t => t.fb == []) = true ∧
      gives (exec (.setPixel (-1) 0 true) State.reset) (fun t => t.fb == []) = true ∧
      gives (exec (.setPixel 0 40 true) State.reset) (fun t => t.fb == []) = true ∧
      gives (exec (.setPixel 0 (-1) true) State.reset) (fun t => t.fb == []) = true := by decide

/-- V56, its CLEAR: latched, it runs and logs nothing. -/
theorem test_clear_latched :
    gives (exec .clear { latched [] with fb := [(0, 0x01)] }) (fun t =>
      lastResponse t == [0x00] && t.fb.read 0 == 0x00 && t.log == []) = true := by decide

/-- V73: page 2's data frame times out. -/
theorem test_flush_timeout :
    gives (exec .flush (answering (acks 5 ++ [.timeout]))) (fun t =>
      lastResponse t == [0x02] && t.log.length == 6 && (logText t)[4]? == some "S 78 00 0C 11 B2 P") = true := by
  decide +kernel

/-- V77: under SEPARATE, frame 6 fails. -/
theorem test_flush_separate_nack :
    gives (exec .flush { answering (acks 5 ++ [.nack]) with cfg := separateBuild }) (fun t =>
      lastResponse t == [0x01] && ((logText t).take 3 ++ (logText t).drop 4) ==
        ["S 78 00 0C P", "S 78 00 11 P", "S 78 00 B0 P", "S 78 00 0C P", "S 78 00 11 P"]) = true := by decide +kernel

/-- R70, R71: the address byte goes behind start. -/
theorem test_wireAddrByte :
    gives (exec (.wireAddrByte 0x3C) (State.reset.withFrame [.start])) (fun t => frameText t.seq.frame == "S 78") = true := by
  decide

/-- R72. -/
theorem test_wireCtrl :
    gives (exec .wireCtrlCmd (State.reset.withFrame [.start])) (fun t => frameText t.seq.frame == "S 00") = true ∧
      gives (exec .wireCtrlData (State.reset.withFrame [.start])) (fun t => frameText t.seq.frame == "S 40") = true := by
  decide

/-- R75 to R77 with the nibbles of E3. -/
theorem test_wirePanelBytes :
    gives (exec (.wireLowCol 0xC) (State.reset.withFrame [])) (fun t => frameText t.seq.frame == "0C") = true ∧
      gives (exec (.wireHighCol 0x1) (State.reset.withFrame [])) (fun t => frameText t.seq.frame == "11") = true ∧
      gives (exec (.wirePage 0x4) (State.reset.withFrame [])) (fun t => frameText t.seq.frame == "B4") = true := by decide

/-! ## Steps -/

/-- V13: an illegal request takes the request off the port and answers 0xFF. -/
theorem test_step_illegal :
    gives (step { State.reset with inputs := [.request [0x00]] }) (fun t =>
      lastResponse t == [0xFF] && t.inputs == [] && t.fb == []) = true := by decide

/-- R270 on the state of P2: reset leaves FAILED. -/
theorem test_step_reset :
    gives (step { latched [] with inputs := [.reset], fb := [(82, 0x04)] }) (fun t =>
      t.initState.toWord == 0x0000 && t.fb == []) = true := by decide

/-- The word of V9 as the first request after reset. -/
theorem test_step_fetchWord :
    gives (step (State.reset.withFetchWord 48 0x01000A000520)) (fun t => t.fb == [(77, 0x04)]) = true := by decide

/-- The words of V3 and of an F3 row of which only byte 0 is given, each as the first request after reset. -/
theorem test_step_fetchWord_short :
    gives (step (State.reset.withFetchWord 8 0x21)) (fun t => lastResponse t == [0x00]) = true ∧
      gives (step (State.reset.withFetchWord 8 0x10)) (fun t => lastResponse t == [0x00] && t.log == []) = true := by decide

/-! ## Clients -/

/-- V83, V84: the first row of glyph 0x42 under both bit orders. -/
theorem test_glyph_bit_order :
    (drawGlyphRow testFont .msbLeft 0 0 0x42 0).head? = some (.setPixel 0 0 true) ∧
      (drawGlyphRow testFont .lsbLeft 0 0 0x42 0).getLast? = some (.setPixel 7 0 true) := by decide

/-- V91, V93, V94, V97: how many requests. -/
theorem test_string_lengths :
    (drawString testFont .msbLeft 0 0 (List.replicate 10 0x41)).length = 576 ∧
      drawString testFont .msbLeft 65 0 [0x41] = [] ∧ (drawString testFont .msbLeft (-4) 0 [0x41]).length = 64 ∧
      centeredStart 10 = 0 ∧ centeredStart 1 = 32 := by decide +kernel

/-- V102: twelve characters and a newline. -/
theorem test_serial_truncates :
    onBytes .emit ⟨[]⟩ [0x41, 0x42, 0x43, 0x44, 0x45, 0x46, 0x47, 0x48, 0x49, 0x4A, 0x4B, 0x4C, 0x0A]
      = (⟨[]⟩, [.render [0x41, 0x42, 0x43, 0x44, 0x45, 0x46, 0x47, 0x48, 0x49, 0x4A],
          .echo [0x41, 0x42, 0x43, 0x44, 0x45, 0x46, 0x47, 0x48, 0x49, 0x4A]]) := by decide

/-- V104, V105: carriage return and newline. -/
theorem test_serial_empty_line :
    (onBytes .emit ⟨[]⟩ [0x41, 0x42, 0x0D, 0x0A]).2
        = [.render [0x41, 0x42], .echo [0x41, 0x42], .render [], .echo []] ∧
      (onBytes .skip ⟨[]⟩ [0x41, 0x42, 0x0D, 0x0A]).2 = [.render [0x41, 0x42], .echo [0x41, 0x42]] := by decide

/-! ## Witnesses: states and operands that meet each statement's hypotheses, at the boundaries of its clauses -/

/-- Both extremes of a payload's length under a limit of 4. -/
theorem test_witness_decodeOfEncode :
    (Instr.sendCmd [0xAE, 0xAE, 0xAE, 0xAE]).isOperation = true ∧
      (Instr.sendCmd [0xAE, 0xAE, 0xAE, 0xAE]).wellFormed 4 = true ∧ (Instr.write 0x7F 0xFF []).isOperation = true ∧
      (Instr.write 0x7F 0xFF []).wellFormed 4 = true := by decide

theorem test_witness_decodedRequest :
    decode 4 [0x10, 0x04, 0x00, 0x01, 0x02, 0x03, 0x04] = .ok (.sendCmd [0x01, 0x02, 0x03, 0x04]) := by decide

theorem test_witness_wireBytes :
    (Instr.wireAddrByte 0x7F).wireSlot = some .address ∧ decodeWire .address 0xFE = some (.wireAddrByte 0x7F) ∧
      (Instr.wirePage 0xF).wireSlot = some .page ∧ decodeWire .page 0xBF = some (.wirePage 0xF) ∧
      Instr.wireCtrlData.wireSlot = some .control ∧ decodeWire .lowColumn 0x0F = some (.wireLowCol 0xF) ∧
      decodeWire .highColumn 0x1F = some (.wireHighCol 0xF) := by decide

theorem test_witness_writeFrame : ([0xAE] : List Byte) ≠ [] := by decide

/-- The register values of V36 and the reserved encodings, each at its smallest value. -/
theorem test_witness_initStateWord :
    InitState.ofWord 0x0066 = some ⟨.failed, some .nack, 6⟩ ∧ InitState.ofWord 0x0120 = some ⟨.uninit, none, 18⟩ ∧
      InitState.ofWord 0x0003 = none ∧ InitState.ofWord 0x000C = none ∧ InitState.ofWord 0x0130 = none ∧
      InitState.ofWord 0x0200 = none := by decide

/-- A state with the reset signal next. -/
def resetNext : State := { latched [] with inputs := [.reset, .request [0x12]] }

theorem test_witness_resetEvent : resetNext.inputs = .reset :: [.request [0x12]] := rfl

/-- A state with a legal request next. -/
def requestNext : State := { State.reset with inputs := [.request [0x20, 0x05, 0x00, 0x0A, 0x00, 0x01]] }

theorem test_witness_stepRuns :
    requestNext.inputs = .request [0x20, 0x05, 0x00, 0x0A, 0x00, 0x01] :: [] ∧
      decode requestNext.params.maxPayload [0x20, 0x05, 0x00, 0x0A, 0x00, 0x01] = .ok (.setPixel 5 10 true) := by decide

/-- A state with an illegal request next, and one more behind it. -/
def illegalNext : State := { latched [] with inputs := [.request [0x04], .request [0x03]] }

theorem test_witness_illegalRequest :
    illegalNext.inputs = .request [0x04] :: [.request [0x03]] ∧
      decode illegalNext.params.maxPayload [0x04] = .error .unassignedOp := by decide

theorem test_witness_stepWaits : State.reset.inputs = [] := rfl

theorem test_witness_scanRange : State.reset.params.scanLo = 0x03 ∧ State.reset.params.scanHi = 0x77 := by decide

/-- Both ends of the clauses of ScanProbesTheValidRange. -/
theorem test_witness_scanRange_ends :
    (0 : Nat) < 117 ∧ (116 : Nat) < 117 ∧ (2 : Nat) < 3 ∧ 0x78 ≤ (0x78 : Nat) ∧ 0x78 ≤ (0x7F : Nat) := by decide

/-- A failing send, a scan, and an INIT that fails at its last step: the three clauses of NoFrameIsResubmitted. -/
theorem test_witness_noResubmit :
    (∃ t, exec (.write 0x3C 0x00 [0xAE]) (answering [.nack]) = .next t ∧
        (t.log.getLast?).map (causeOf ·.outcome) = some (some .nack)) ∧
      (∃ t, exec .scan (answering (acks 117)) = .next t) ∧
      ∃ t, exec .init (answering (acks 17 ++ [.timeout])) = .next t ∧
        (t.log.getLast?).map (causeOf ·.outcome) = some (some .timeout) :=
  ⟨⟨_, rfl, rfl⟩, ⟨_, rfl⟩, ⟨_, rfl, rfl⟩⟩

theorem test_witness_scanAffects :
    ∃ u, exec .scan (answering (acks 117)) = .next u ∧ ∃ t, exec .init { answering (acks 117) with bus := u.bus } = .next t :=
  ⟨_, rfl, _, rfl⟩

theorem test_witness_latch : (latched []).initState.state = .failed := rfl

/-- UNINIT and READY, the two states that are not latched. -/
theorem test_witness_notLatched :
    State.reset.initState.state ≠ .failed ∧
      { State.reset with initState := ⟨.ready, none, 0⟩ }.initState.state ≠ .failed := by decide

theorem test_witness_sendsPropagate :
    (answering [.timeout]).initState.state ≠ .failed ∧ ([0xAF] : List Byte) ≠ [] ∧
      causeOf ((answering [.timeout]).bus.peek 0) = some .timeout ∧
      ∃ t, exec (.sendData [0xAF]) (answering [.timeout]) = .next t :=
  ⟨by decide, by decide, by decide, _, rfl⟩

/-- Both framings of INIT. -/
theorem test_witness_initAcked :
    (answering (acks 18)).initState.state ≠ .failed ∧
      AllAcked (answering (acks 18)).bus (initFrames (answering (acks 18)).params).length ∧
      AllAcked { answering (acks 1) with cfg := singleBuild }.bus
        (initFrames { answering (acks 1) with cfg := singleBuild }.params).length := by
  unfold AllAcked; decide +kernel

/-- The first and the last step of INIT, and its one frame under SINGLE. -/
theorem test_witness_initFails :
    ∀ x ∈ [(defaultConfig, [BusOutcome.nack], 0, Cause.nack), (defaultConfig, acks 17 ++ [.timeout], 17, .timeout),
      (singleBuild, [.nack], 0, .nack)],
      x.2.2.1 < (initFrames { answering x.2.1 with cfg := x.1 }.params).length ∧
        { answering x.2.1 with cfg := x.1 }.initState.state ≠ .failed ∧
        FirstFailure { answering x.2.1 with cfg := x.1 }.bus x.2.2.1 x.2.2.2 := by
  unfold FirstFailure AllAcked; decide +kernel

/-- The three ways of OnlyInitAndResetChangeInitState: another request, the reset signal, and INIT both ways. -/
theorem test_witness_initStateChanges :
    (∃ t, step requestNext = .next t) ∧ (∃ t, step resetNext = .next t ∧ t.initState = .reset) ∧
      (∃ t, step { answering (acks 18) with inputs := [.request [0x12]] } = .next t ∧ t.initState = ⟨.ready, none, 0⟩) ∧
      ∃ t, step { answering [.nack] with inputs := [.request [0x12]] } = .next t ∧
        t.initState = ⟨.failed, some .nack, 1⟩ :=
  ⟨⟨_, rfl⟩, ⟨_, rfl, rfl⟩, ⟨_, rfl, rfl⟩, ⟨_, rfl, rfl⟩⟩

/-- P2's requests 2 to 5 behind a failed INIT, with an illegal request. -/
def silentRun : State :=
  { latched [] with
    inputs := [.request [0x20, 0x0A, 0x00, 0x0A, 0x00, 0x01], .request [0x30], .request [0x11, 0x01, 0x00, 0xFF],
      .request [0x12], .request [0x00]] }

/-- A request that decodes to `i` is none of WRITE, PROBE and SCAN if `i` is none. -/
theorem silent_of_decode {m : Nat} {bytes : List Byte} {i : Instr} (h : decode m bytes = .ok i) (hs : i ≠ .scan)
    (hp : ∀ a, i ≠ .probe a) (hw : ∀ a c p, i ≠ .write a c p) :
    ∀ j, decode m bytes = .ok j → j ≠ .scan ∧ (∀ a, j ≠ .probe a) ∧ ∀ a c p, j ≠ .write a c p := by
  intro j hj
  rw [h] at hj
  cases hj
  exact ⟨hs, hp, hw⟩

theorem test_witness_silent :
    silentRun.initState.state = .failed ∧
      ∀ x ∈ silentRun.inputs, ∃ bytes, x = .request bytes ∧ ∀ i, decode silentRun.params.maxPayload bytes = .ok i →
        i ≠ .scan ∧ (∀ a, i ≠ .probe a) ∧ ∀ a c p, i ≠ .write a c p := by
  refine ⟨rfl, fun x hx => ?_⟩
  simp only [silentRun, List.mem_cons, List.not_mem_nil, or_false] at hx
  rcases hx with rfl | rfl | rfl | rfl | rfl
  · exact ⟨_, rfl, silent_of_decode (i := .setPixel 10 10 true) (by decide) nofun nofun nofun⟩
  · exact ⟨_, rfl, silent_of_decode (i := .flush) (by decide) nofun nofun nofun⟩
  · exact ⟨_, rfl, silent_of_decode (i := .sendData [0xFF]) (by decide) nofun nofun nofun⟩
  · exact ⟨_, rfl, silent_of_decode (i := .init) (by decide) nofun nofun nofun⟩
  · refine ⟨_, rfl, fun i h => ?_⟩
    have e : decode silentRun.params.maxPayload [0x00] = .error .unassignedOp := by decide
    rw [e] at h
    cases h

/-- The corners of the panel, as SET_PIXEL's operands: their integer values. -/
theorem test_witness_setPixel_on :
    (0 : Coord).toInt = 0 ∧ (71 : Coord).toInt = 71 ∧ (39 : Coord).toInt = 39 := by simp

/-- The nearest and the farthest coordinates outside, on each side: their integer values. -/
theorem test_witness_setPixel_off :
    (-1 : Coord).toInt = -1 ∧ (-32768 : Coord).toInt = -32768 ∧ (72 : Coord).toInt = 72 ∧ (40 : Coord).toInt = 40 ∧
      (32767 : Coord).toInt = 32767 := by simp

theorem test_witness_setPixel_runs :
    State.reset.fb.wf = true ∧ (∃ t, exec (.setPixel 71 39 true) State.reset = .next t ∧ t.log = []) ∧
      ∃ t, exec (.setPixel 72 0 true) State.reset = .next t ∧ t.log = [] := by
  refine ⟨by decide, ?_, ?_⟩
  · obtain ⟨t, h, hl⟩ := next_of_gives (o := exec (.setPixel 71 39 true) State.reset) (p := fun t => t.log == []) (by decide)
    exact ⟨t, h, by simpa using hl⟩
  · obtain ⟨t, h, hl⟩ := next_of_gives (o := exec (.setPixel 72 0 true) State.reset) (p := fun t => t.log == []) (by decide)
    exact ⟨t, h, by simpa using hl⟩

/-- A framebuffer with the first and the last byte listed. -/
def twoBytes : Memory := [(0, 0x01), (359, 0x80)]

theorem test_witness_canonical : twoBytes.wf = true := by decide

/-- Different pixels of one byte, and a clipped one beside one on the panel. -/
theorem test_witness_pixels_differ :
    ((0, 0) : Coord × Coord) ≠ (0, 7) ∧ ((72, 0) : Coord × Coord) ≠ (0, 8) ∧ (3, 3) ≠ ((3, 4) : Nat × Nat) := by decide

/-- The state with a framebuffer of two listed bytes, a build and the next outcomes. -/
def flushState (build : Config) (os : List BusOutcome) : State := { answering os with cfg := build, fb := twoBytes }

/-- FLUSH acknowledged, under both framings; and the first and last page, column and bit of its data. -/
theorem test_witness_flushAcked :
    (∀ x ∈ [(defaultConfig, acks 10), (separateBuild, acks 20)],
      (flushState x.1 x.2).initState.state ≠ .failed ∧
        AllAcked (flushState x.1 x.2).bus (flushFrames (flushState x.1 x.2).params (flushState x.1 x.2).fb).length) ∧
      (0 < 5 ∧ 4 < 5) ∧ (0 < 72 ∧ 71 < 72) ∧ 0 < 8 ∧ 7 < 8 := by
  unfold AllAcked; decide +kernel

/-- FLUSH failing at its first and at its last frame, under both framings. -/
theorem test_witness_flushFails :
    ∀ x ∈ [(defaultConfig, [BusOutcome.nack], 0, Cause.nack), (defaultConfig, acks 9 ++ [.timeout], 9, .timeout),
      (separateBuild, acks 19 ++ [.nack], 19, .nack)],
      x.2.2.1 < (flushFrames (flushState x.1 x.2.1).params (flushState x.1 x.2.1).fb).length ∧
        (flushState x.1 x.2.1).initState.state ≠ .failed ∧ FirstFailure (flushState x.1 x.2.1).bus x.2.2.1 x.2.2.2 := by
  unfold FirstFailure AllAcked; decide +kernel

/-- V73's failure and a FLUSH behind it that is acknowledged. -/
theorem test_witness_nextFlush :
    5 < (flushFrames (answering (acks 5 ++ .timeout :: acks 10)).params (answering (acks 5 ++ .timeout :: acks 10)).fb).length ∧
      (answering (acks 5 ++ .timeout :: acks 10)).initState.state ≠ .failed ∧
      FirstFailure (answering (acks 5 ++ .timeout :: acks 10)).bus 5 .timeout ∧
      AllAcked ((answering (acks 5 ++ .timeout :: acks 10)).bus.advance (5 + 1))
        (flushFrames (answering (acks 5 ++ .timeout :: acks 10)).params (answering (acks 5 ++ .timeout :: acks 10)).fb).length := by
  unfold FirstFailure AllAcked; decide +kernel

/-- An operation that may not write FB, one that leaves LOG alone, and a wire byte. -/
theorem test_witness_allOperations :
    (∃ t, exec (.probe 0x3C) State.reset = .next t) ∧ (∃ t, exec .clear State.reset = .next t) ∧
      (∃ t, exec .wireCtrlCmd State.reset = .next t) ∧ Instr.wireCtrlCmd.isOperation = false ∧
      Instr.clear.isOperation = true :=
  ⟨⟨_, rfl⟩, ⟨_, rfl⟩, ⟨_, rfl⟩, by decide, by decide⟩

/-- A latched state with a listed byte, a logged frame, a response and a request next satisfies the invariant. -/
def invState : State :=
  { latched [] with
    fb := twoBytes, log := [⟨probeFrame 0x3C, .probe, .ack⟩], responses := [⟨.initError 6 (some .nack), none⟩],
    inputs := [.request [0x21]] }

theorem test_witness_invariant : State.Inv invState ∧ ∃ t, step invState = .next t := by
  refine ⟨⟨by decide, ⟨by decide, by decide⟩, rfl, ?_, ?_⟩, _, rfl⟩
  · intro e he
    simp only [invState, List.mem_singleton] at he
    subst he
    exact ⟨0x3C, rfl⟩
  · intro r hr
    simp only [invState, List.mem_singleton] at hr
    subst hr
    exact ⟨fun k c h => by cases h; decide, fun h => absurd rfl h⟩

/-- The last cell inside the panel, and the strings and lines of the clients' statements. -/
theorem test_witness_clients :
    ((64 : Nat) ≤ 64 ∧ (32 : Nat) ≤ 32 ∧ (flushState defaultConfig []).fb.wf = true) ∧ ([0x48, 0x65, 0x6C, 0x6C, 0x6F] : List Byte).length = 5 ∧
      (∀ v ∈ ([0x31, 0x32, 0x2E, 0x31, 0x56] : List Byte), v ≠ 0x0A ∧ v ≠ 0x0D) ∧
      ((-32768 : Int) ≤ -32768 ∧ (32760 : Int) ≤ 32760 ∧ (64 : Int) < 65) := by
  refine ⟨by decide, by decide, by decide, by omega⟩

end Sys2Proof.Tests
end

/-! PROOFS. The wire encodings of 30_encoding.md sections 2 and 3: what a write frame holds, and the patterns of the three
panel command bytes, each reduced to its nibble. -/

namespace Sys2Proof.Machine

/-! ## The write frame -/

/-- Start, address byte, control byte and stop stand around the payload (R70). -/
theorem writeFrame_length (addr : BusAddr) (ctrl : Byte) (payload : List Byte) :
    (writeFrame addr ctrl payload).length = payload.length + 4 := by
  simp [writeFrame]

/-- A test that holds of exactly the byte symbols counts the address byte, the control byte and the payload. -/
theorem writeFrame_countP_byte (addr : BusAddr) (ctrl : Byte) (payload : List Byte) {p : Symbol → Bool}
    (hstart : p .start = false) (hbyte : ∀ v, p (.byte v) = true) (hstop : p .stop = false) :
    (writeFrame addr ctrl payload).countP p = payload.length + 2 := by
  have hpayload : (payload.map Symbol.byte).countP p = payload.length := by
    rw [List.countP_map, List.countP_eq_length]
    exact fun v _ => hbyte v
  simp [writeFrame, hpayload, hstart, hbyte, hstop]

/-- A zero-length WRITE ends with OK and submits no frame. -/
theorem exec_write_nil (addr : BusAddr) (ctrl : Byte) (s : State) :
    exec (.write addr ctrl []) s = .next (respond .ok s) := by
  simp [exec, execWrite, respondTxn, Status.ofCause]

/-! ## The panel command bytes -/

/-- The mask of the panel commands keeps the low nibble, for every number. -/
theorem and_nibble_mask (n : Nat) : n &&& 0xF = n % 16 := Nat.and_two_pow_sub_one_eq_mod n 4

/-- Only the low nibble of a column is in its low column byte (R75). -/
theorem lowColCmd_eq (c : Nat) : lowColCmd c = 0x0#4 ++ BitVec.ofNat 4 c := by
  rw [← lowColCmd_nibble]
  simp [lowColCmd, and_nibble_mask]

/-- Only bits 4 to 7 of a column are in its high column byte (R76). -/
theorem highColCmd_eq (c : Nat) : highColCmd c = 0x1#4 ++ BitVec.ofNat 4 (c / 16) := by
  rw [← highColCmd_nibble]
  simp [highColCmd, and_nibble_mask, Nat.shiftRight_eq_div_pow]

/-- The bits of a column above 7 are dropped (R76). -/
theorem highColCmd_mod (c : Nat) : highColCmd (c % 256) = highColCmd c := by
  have hnibble : c % 256 / 16 % 16 = c / 16 % 16 := by omega
  simp [highColCmd, and_nibble_mask, Nat.shiftRight_eq_div_pow, hnibble]

/-- Only the low nibble of a page is in its page byte (R77). -/
theorem pageCmd_eq (p : Nat) : pageCmd p = 0xB#4 ++ BitVec.ofNat 4 p := by
  rw [← pageCmd_nibble]
  simp [pageCmd, and_nibble_mask]

/-- On this hardware's pages the page byte is a sum (R77). -/
theorem pageCmd_of_lt {p : Nat} (hp : p < 5) : pageCmd p = BitVec.ofNat 8 (0xB0 + p) := by
  revert p
  decide

/-! ## The obligations -/

/-- Settles O5: the frame is the definition's list, its counts are `writeFrame_length` and `writeFrame_countP_byte`, and an
empty WRITE only responds. -/
theorem writeFrameHoldsItsBytesInOrder : Obligations.WriteFrameHoldsItsBytesInOrder := by
  intro addr ctrl payload _
  refine ⟨rfl, writeFrame_length addr ctrl payload, ?_, fun a c s => ⟨exec_write_nil a c s, respond_log s .ok⟩⟩
  exact writeFrame_countP_byte addr ctrl payload rfl (fun _ => rfl) rfl

/-- Settles O7: each formula is the definition, each pattern the byte's lemma on its nibble. -/
theorem panelCommandBytesHaveTheirPatterns : Obligations.PanelCommandBytesHaveTheirPatterns := by
  intro n
  exact ⟨⟨rfl, lowColCmd_eq n⟩, ⟨rfl, highColCmd_eq n⟩, ⟨rfl, pageCmd_eq n⟩, pageCmd_of_lt, (highColCmd_mod n).symm⟩

end Sys2Proof.Machine

/-! PROOFS. The bus transport's two statements about every instruction (40_bus_transport.md R103, R109), from one
description of what an operation does: a `Completion`, which does not depend on what the block went through before. -/

namespace Sys2Proof.Machine

/-! ## What an operation does, and what it does not read -/

/-- The state `s` with the past of `h`: its LOG, sequencer, outstanding inputs and responses. -/
def State.withHistory (s h : State) : State :=
  { s with log := h.log, seq := h.seq, inputs := h.inputs, responses := h.responses }

@[simp] theorem withHistory_fb (s h : State) : (s.withHistory h).fb = s.fb := rfl
@[simp] theorem withHistory_initState (s h : State) : (s.withHistory h).initState = s.initState := rfl
@[simp] theorem withHistory_bus (s h : State) : (s.withHistory h).bus = s.bus := rfl
@[simp] theorem withHistory_params (s h : State) : (s.withHistory h).params = s.params := rfl
@[simp] theorem withHistory_self (s : State) : s.withHistory s = s := rfl
@[simp] theorem latchCheck_withHistory (s h : State) : latchCheck (s.withHistory h) = latchCheck s := rfl

/-- What an operation leaves in FB and INIT_STATE, adds to LOG, and answers. -/
structure Completion where
  fb : Memory
  initState : InitState
  entries : List LogEntry
  response : Response

/-- The state an operation ends in: one outcome drawn per entry, and nothing in progress. -/
def Completion.apply (e : Completion) (s : State) : State :=
  { s with
    fb := e.fb
    initState := e.initState
    log := s.log ++ e.entries
    bus := s.bus.advance e.entries.length
    responses := s.responses ++ [e.response]
    seq := .idle }

/-- From `s` under every past, the operation ends in one and the same completion. -/
def Completes (i : Instr) (s : State) (e : Completion) : Prop :=
  ∀ h, exec i (s.withHistory h) = .next (e.apply (s.withHistory h))

/-- An operation that only answers. -/
def Completion.answer (s : State) (st : Status) : Completion := ⟨s.fb, s.initState, [], ⟨st, none⟩⟩

theorem respond_eq_apply (s h : State) (st : Status) :
    respond st (s.withHistory h) = (Completion.answer s st).apply (s.withHistory h) := by
  simp [respond, respondWith, Completion.apply, Completion.answer]

/-- A wire byte goes into the frame in flight, whatever the state (assumption log 3). -/
theorem exec_wireByte {i : Instr} (hi : i.isOperation = false) : ∃ v, ∀ s, exec i s = .next (composeByte v s) := by
  cases i with
  | wireAddrByte a => exact ⟨addrByte a, fun _ => rfl⟩
  | wireCtrlCmd => exact ⟨ctrlCmd, fun _ => rfl⟩
  | wireCtrlData => exact ⟨ctrlData, fun _ => rfl⟩
  | wireLowCol l => exact ⟨lowColCmd l.toNat, fun _ => rfl⟩
  | wireHighCol h => exact ⟨highColCmd (h.toNat * 16), fun _ => rfl⟩
  | wirePage p => exact ⟨pageCmd p.toNat, fun _ => rfl⟩
  | _ => cases hi

/-! ## A failed frame ends the operation (R103) -/

/-- Only the last frame can have failed, and its cause is the status: a BusError, or INIT's InitError. -/
def Completion.FailureEnds (e : Completion) (i : Instr) : Prop :=
  (∀ x ∈ e.entries.dropLast, x.outcome = .ack) ∧
    ∀ x c, e.entries.getLast? = some x → causeOf x.outcome = some c →
      ∃ st, e.response = ⟨st, none⟩ ∧ (i ≠ .init → st = .busError c) ∧ (i = .init → ∃ k, st = .initError k (some c))

theorem failureEnds_of_acked {e : Completion} (i : Instr) (h : ∀ x ∈ e.entries, x.outcome = .ack) : e.FailureEnds i := by
  refine ⟨fun x hx => h x (List.mem_of_mem_dropLast hx), fun x c hx hc => ?_⟩
  rw [h x (List.mem_of_getLast? hx)] at hc
  cases hc

theorem failureEnds_of_failed {e : Completion} {i : Instr} {acked : List LogEntry} {x : LogEntry} {c : Cause} {st : Status}
    (hentries : e.entries = acked ++ [x]) (hacked : ∀ y ∈ acked, y.outcome = .ack) (hc : causeOf x.outcome = some c)
    (hresponse : e.response = ⟨st, none⟩) (hbus : i ≠ .init → st = .busError c)
    (hinit : i = .init → ∃ k, st = .initError k (some c)) : e.FailureEnds i := by
  refine ⟨by simpa [hentries] using hacked, fun y d hy hd => ⟨st, hresponse, ?_⟩⟩
  obtain rfl : x = y := by simpa [hentries] using hy
  obtain rfl : c = d := Option.some.inj (hc.symm.trans hd)
  exact ⟨hbus, hinit⟩

theorem outcome_of_mem_ackedEntries {fs : List Frame} {x : LogEntry} (h : x ∈ ackedEntries fs) : x.outcome = .ack := by
  obtain ⟨f, -, rfl⟩ := List.mem_map.1 h
  rfl

/-- The operation's answer is its transaction's status. -/
theorem respondTxn_eq_apply {r : State × Option Cause} {s : State} {new : List LogEntry} {n : Nat} {c : Option Cause}
    (hcause : r.2 = c) (hlength : new.length = n)
    (hstate : r.1.noSeq = { s with log := s.log ++ new, bus := s.bus.advance n, seq := .idle }) :
    respondTxn r = (Completion.mk s.fb s.initState new ⟨Status.ofCause c, none⟩).apply s := by
  subst hcause hlength
  rw [respondTxn, respond, respondWith_noSeq, hstate]
  rfl

/-- Write frames sent up to the first failure, with that failure as the status. -/
theorem sendFrames_completes {i : Instr} (hi : i ≠ .init) (fs : List Frame) (s : State) :
    ∃ e : Completion, e.FailureEnds i ∧
      ∀ h, respondTxn (sendFrames fs (s.withHistory h)) = e.apply (s.withHistory h) := by
  rcases allAcked_or_firstFailure s.bus fs.length with hack | ⟨n, c, hn, hfail⟩
  · refine ⟨⟨s.fb, s.initState, ackedEntries fs, ⟨.ok, none⟩⟩,
      failureEnds_of_acked i fun x hx => outcome_of_mem_ackedEntries hx, fun h => ?_⟩
    obtain ⟨hnone, hstate⟩ := sendFrames_acked (s := s.withHistory h) hack
    exact respondTxn_eq_apply hnone (by simp [ackedEntries]) hstate
  · refine ⟨⟨s.fb, s.initState, ackedEntries (fs.take n) ++ [⟨fs[n], .write, s.bus.peek n⟩], ⟨.busError c, none⟩⟩,
      failureEnds_of_failed rfl (fun x hx => outcome_of_mem_ackedEntries hx) hfail.2 rfl (fun _ => rfl)
        (fun h => absurd h hi), fun h => ?_⟩
    obtain ⟨hsome, hstate⟩ := sendFrames_failed (s := s.withHistory h) hn hfail
    exact respondTxn_eq_apply hsome (by simp [ackedEntries, hn.le]) hstate

/-- A WRITE is no frame or one. -/
theorem writeTxn_eq_sendFrames (addr : BusAddr) (ctrl : Byte) (payload : List Byte) :
    ∃ fs, ∀ s, writeTxn addr ctrl payload s = sendFrames fs s := by
  by_cases hp : payload = []
  · exact ⟨[], fun s => by rw [hp]; rfl⟩
  · refine ⟨[writeFrame addr ctrl payload], fun s => ?_⟩
    rw [writeTxn_eq addr ctrl s hp, sendFrames]
    cases causeOf (s.bus.peek 0) <;> rfl

theorem writeTxn_completes {i : Instr} (hi : i ≠ .init) (addr : BusAddr) (ctrl : Byte) (payload : List Byte) (s : State) :
    ∃ e : Completion, e.FailureEnds i ∧
      ∀ h, respondTxn (writeTxn addr ctrl payload (s.withHistory h)) = e.apply (s.withHistory h) := by
  obtain ⟨fs, hfs⟩ := writeTxn_eq_sendFrames addr ctrl payload
  simpa only [hfs] using sendFrames_completes hi fs s

theorem probeTxn_completes (a : BusAddr) (s : State) :
    ∃ e : Completion, e.FailureEnds (.probe a) ∧ Completes (.probe a) s e := by
  refine ⟨⟨s.fb, s.initState, [⟨probeFrame a, .probe, s.bus.peek 0⟩], ⟨Status.ofCause (causeOf (s.bus.peek 0)), none⟩⟩,
    ?_, fun _ => rfl⟩
  cases hc : causeOf (s.bus.peek 0) with
  | none => exact failureEnds_of_acked _ (by simpa using causeOf_eq_none.1 hc)
  | some c => exact failureEnds_of_failed (acked := []) rfl (by simp) hc rfl (fun _ => rfl) nofun

/-- INIT's steps up to the first failure, which latches. -/
theorem initLoop_completes {steps : List (StepNo × List Byte)} (hne : ∀ st ∈ steps, st.2 ≠ []) (s : State) :
    ∃ e : Completion, e.FailureEnds .init ∧ ∀ h, initLoop steps (s.withHistory h) = e.apply (s.withHistory h) := by
  rcases allAcked_or_firstFailure s.bus steps.length with hack | ⟨n, c, hn, hfail⟩
  · refine ⟨⟨s.fb, ⟨.ready, none, 0⟩, ackedEntries (stepFrames s.params.panelAddr steps), ⟨.ok, none⟩⟩,
      failureEnds_of_acked _ fun x hx => outcome_of_mem_ackedEntries hx, fun h => ?_⟩
    rw [initLoop_acked (s := s.withHistory h) hne hack]
    simp [initReady, respond, respondWith, Completion.apply, ackedEntries, stepFrames]
  · refine ⟨⟨s.fb, ⟨.failed, some c, steps[n].1⟩, ackedEntries ((stepFrames s.params.panelAddr steps).take n) ++
        [⟨writeFrame s.params.panelAddr ctrlCmd steps[n].2, .write, s.bus.peek n⟩],
        ⟨.initError steps[n].1 (some c), none⟩⟩,
      failureEnds_of_failed rfl (fun x hx => outcome_of_mem_ackedEntries hx) hfail.2 rfl (fun h => absurd rfl h)
        (fun _ => ⟨_, rfl⟩), fun h => ?_⟩
    rw [initLoop_failed (s := s.withHistory h) hne hn hfail]
    simp [initFailed, respond, respondWith, Completion.apply, ackedEntries, stepFrames, hn.le]

/-- Behind the latch check, a set latch only answers (41_panel_controller.md R131). -/
theorem latched_completes {i : Instr} {s : State} {st : Status}
    (h : ∀ u, latchCheck u = some st → exec i u = .next (respond st u)) (hl : latchCheck s = some st) :
    ∃ e : Completion, e.FailureEnds i ∧ Completes i s e :=
  ⟨.answer s st, failureEnds_of_acked i nofun, fun p =>
    (h (s.withHistory p) hl).trans (congrArg _ (respond_eq_apply s p st))⟩

/-- A send to the panel behind the latch check. -/
theorem panelSend_completes {i : Instr} (hi : i ≠ .init) (ctrl : Byte) (bytes : List Byte)
    (hlatched : ∀ u st, latchCheck u = some st → exec i u = .next (respond st u))
    (hclear : ∀ u, latchCheck u = none → exec i u = .next (respondTxn (panelSend ctrl bytes u))) (s : State) :
    ∃ e : Completion, e.FailureEnds i ∧ Completes i s e := by
  cases hl : latchCheck s with
  | some st => exact latched_completes (fun u => hlatched u st) hl
  | none =>
    obtain ⟨e, hend, he⟩ := writeTxn_completes hi s.params.panelAddr ctrl bytes s
    exact ⟨e, hend, fun h => (hclear (s.withHistory h) hl).trans (congrArg _ (he h))⟩

theorem sendCmd_completes (bytes : List Byte) (s : State) :
    ∃ e : Completion, e.FailureEnds (.sendCmd bytes) ∧ Completes (.sendCmd bytes) s e :=
  panelSend_completes (i := .sendCmd bytes) nofun ctrlCmd bytes (fun u st h => by simp [exec, execSendCmd, h])
    (fun u h => by simp [exec, execSendCmd, h]) s

theorem sendData_completes (bytes : List Byte) (s : State) :
    ∃ e : Completion, e.FailureEnds (.sendData bytes) ∧ Completes (.sendData bytes) s e :=
  panelSend_completes (i := .sendData bytes) nofun ctrlData bytes (fun u st h => by simp [exec, execSendData, h])
    (fun u h => by simp [exec, execSendData, h]) s

/-- SINGLE is the loop over one step of all the bytes. -/
theorem initSingle_eq_initLoop (s : State) : initSingle s = initLoop [(1, s.params.initTable.flatten)] s := rfl

theorem init_completes (s : State) : ∃ e : Completion, e.FailureEnds .init ∧ Completes .init s e := by
  cases hl : latchCheck s with
  | some st => exact latched_completes (fun u hu => by simp [exec, execInit, hu]) hl
  | none =>
    cases hf : s.params.initFraming with
    | perStep =>
      obtain ⟨e, hend, he⟩ := initLoop_completes (initSteps_ne s) s
      exact ⟨e, hend, fun h => by simp [exec, execInit, hl, hf, he]⟩
    | single =>
      obtain ⟨e, hend, he⟩ := initLoop_completes (steps := [(1, s.params.initTable.flatten)])
        (by simpa using initTable_flatten_ne s) s
      exact ⟨e, hend, fun h => by simp [exec, execInit, hl, hf, initSingle_eq_initLoop, he]⟩

theorem flush_completes (s : State) : ∃ e : Completion, e.FailureEnds .flush ∧ Completes .flush s e := by
  by_cases hl : s.initState.state = .failed
  · exact latched_completes (fun u hu => by simp [exec, execFlush, hu]) (if_pos hl)
  · obtain ⟨e, hend, he⟩ := sendFrames_completes (i := .flush) nofun (flushFrames s.params s.fb) s
    exact ⟨e, hend, fun h => (execFlush_eq (s := s.withHistory h) hl).trans (congrArg _ (he h))⟩

theorem setPixel_completes (x y : Coord) (on : Bool) (s : State) :
    ∃ e : Completion, e.FailureEnds (.setPixel x y on) ∧ Completes (.setPixel x y on) s e := by
  cases hp : onPanel x.toInt y.toInt with
  | false =>
    exact ⟨.answer s .ok, failureEnds_of_acked _ nofun, fun h => by simp [exec, execSetPixel, hp, respond_eq_apply]⟩
  | true =>
    obtain ⟨-, hx, -, hy⟩ := onPanel_iff.1 hp
    refine ⟨⟨s.fb.write (pixelIndex x.toInt.toNat y.toInt.toNat)
      (packPixel (s.fb.read (pixelIndex x.toInt.toNat y.toInt.toNat)) y.toInt.toNat on), s.initState, [], ⟨.ok, none⟩⟩,
      failureEnds_of_acked _ nofun, fun h => ?_⟩
    simp [exec, execSetPixel, hp, storePixel_eq (x := x.toInt.toNat) (y := y.toInt.toNat) on _ (by omega) (by omega),
      andThen, respond, respondWith, Completion.apply]

theorem clear_completes (s : State) : ∃ e : Completion, e.FailureEnds .clear ∧ Completes .clear s e := by
  refine ⟨⟨Memory.cleared, s.initState, [], ⟨.ok, none⟩⟩, failureEnds_of_acked _ nofun, fun h => ?_⟩
  simp [exec, execClear, respond, respondWith, Completion.apply]

/-! ## SCAN -/

theorem addrByte_injective : Function.Injective addrByte := by
  have hleft : Function.LeftInverse (fun v : Byte => v.extractLsb' 1 7) addrByte := by
    unfold Function.LeftInverse
    decide
  exact hleft.injective

theorem probeFrame_injective : Function.Injective probeFrame := by
  intro a b h
  exact addrByte_injective (by simpa [probeFrame] using h)

/-- SCAN visits no address twice: the range stays below 128. -/
theorem scanRange_nodup (p : Params) : (scanRange p).Nodup := by
  refine List.Nodup.map_on (fun m hm n hn h => ?_) List.nodup_range'
  have hhi := p.scanHi.isLt
  rw [List.mem_range'_1] at hm hn
  have hmod : m % 128 = n % 128 := by simpa using congrArg BitVec.toNat h
  omega

theorem scanEntries_frames (e : BusEnv) (addrs : List BusAddr) :
    (scanEntries e addrs).map (·.frame) = addrs.map probeFrame := by
  apply List.ext_getElem <;> simp [scanEntries]

/-- The bitmap reads nothing of the state but the bus. -/
theorem scanLoop_present_congr (addrs : List BusAddr) (present : BitVec 128) {s u : State} (h : s.bus = u.bus) :
    (scanLoop addrs present s).1 = (scanLoop addrs present u).1 := by
  refine BitVec.eq_of_getLsbD_eq fun i _ => ?_
  rw [(scanLoop_eq addrs present s).2, (scanLoop_eq addrs present u).2, h]

/-- SCAN changes neither FB nor INIT_STATE, probes its range, and answers OK with its bitmap. -/
def scanCompletion (s : State) : Completion :=
  ⟨s.fb, s.initState, scanEntries s.bus (scanRange s.params), ⟨.ok, some (scanLoop (scanRange s.params) 0 s).1⟩⟩

theorem scan_completes (s : State) : Completes .scan s (scanCompletion s) := by
  intro h
  have hlen : (scanEntries s.bus (scanRange s.params)).length = (scanRange s.params).length := by simp [scanEntries]
  simp only [exec, execScan, withHistory_params]
  rw [respondWith_noSeq, (scanLoop_eq _ 0 (s.withHistory h)).1, scanLoop_present_congr _ 0 (withHistory_bus s h)]
  simp [respondWith, Completion.apply, scanCompletion, hlen]

/-- SCAN changes only the past and the bus. -/
theorem exec_scan_eq_withHistory {s u : State} (h : exec .scan s = .next u) :
    u = State.withHistory { s with bus := u.bus } u := by
  obtain rfl := Host.Outcome.next.inj ((scan_completes s s).symm.trans h)
  rfl

/-! ## Every operation -/

/-- R103 of a completion: SCAN repeats no frame, every other operation stops at a failed one. -/
def Completion.NoRetry (e : Completion) (i : Instr) : Prop :=
  (i = .scan → (e.entries.map (·.frame)).Nodup) ∧ (i ≠ .scan → e.FailureEnds i)

theorem scan_noRetry (s : State) : (scanCompletion s).NoRetry .scan := by
  refine ⟨fun _ => ?_, fun h => absurd rfl h⟩
  rw [scanCompletion, scanEntries_frames]
  exact (scanRange_nodup s.params).map probeFrame_injective

/-- Each operation has its completion, the same under every past, without a retry. -/
theorem operation_completes {i : Instr} (hi : i.isOperation = true) (s : State) :
    ∃ e : Completion, e.NoRetry i ∧ Completes i s e := by
  by_cases hscan : i = .scan
  · exact hscan ▸ ⟨_, scan_noRetry s, scan_completes s⟩
  suffices h : ∃ e : Completion, e.FailureEnds i ∧ Completes i s e by
    obtain ⟨e, hend, he⟩ := h
    exact ⟨e, ⟨fun h => absurd h hscan, fun _ => hend⟩, he⟩
  cases i with
  | write addr ctrl payload =>
    obtain ⟨e, hend, he⟩ := writeTxn_completes (i := .write addr ctrl payload) nofun addr ctrl payload s
    exact ⟨e, hend, fun h => congrArg Host.Outcome.next (he h)⟩
  | probe a => exact probeTxn_completes a s
  | scan => exact absurd rfl hscan
  | sendCmd bytes => exact sendCmd_completes bytes s
  | sendData bytes => exact sendData_completes bytes s
  | init => exact init_completes s
  | setPixel x y on => exact setPixel_completes x y on s
  | clear => exact clear_completes s
  | flush => exact flush_completes s
  | _ => cases hi

/-! ## The obligations -/

/-- Settles O21: a wire byte submits nothing, and an operation adds the entries of a completion without a retry. -/
theorem noFrameIsResubmitted : Obligations.NoFrameIsResubmitted := by
  intro i s t ht
  cases hi : i.isOperation with
  | false =>
    obtain ⟨v, hv⟩ := exec_wireByte hi
    obtain rfl : composeByte v s = t := Host.Outcome.next.inj ((hv s).symm.trans ht)
    exact ⟨[], by simp [composeByte, composeBytes]⟩
  | true =>
    obtain ⟨e, ⟨hscan, hend⟩, he⟩ := operation_completes hi s
    obtain rfl : e.apply s = t := Host.Outcome.next.inj ((he s).symm.trans ht)
    refine ⟨e.entries, rfl, hscan, fun hne => ?_⟩
    obtain ⟨hacked, hlast⟩ := hend hne
    refine ⟨hacked, fun x c hx hc => ?_⟩
    obtain ⟨st, hresponse, hst⟩ := hlast x c hx hc
    exact ⟨st, by simp [Completion.apply, hresponse], hst⟩

/-- Settles O22: SCAN leaves the state before it but for the past and the bus, and a completion reads no past. -/
theorem scanAffectsNoLaterOperation : Obligations.ScanAffectsNoLaterOperation := by
  intro s u hu i t ht
  have hpast := exec_scan_eq_withHistory hu
  cases hi : i.isOperation with
  | false =>
    obtain ⟨v, hv⟩ := exec_wireByte hi
    obtain rfl := Host.Outcome.next.inj ((hv _).symm.trans ht)
    refine ⟨composeByte v u, hv u, ?_⟩
    rw [hpast]
    exact ⟨rfl, rfl, rfl, [], [], by simp [composeByte, composeBytes, State.withHistory]⟩
  | true =>
    obtain ⟨e, -, he⟩ := operation_completes hi { s with bus := u.bus }
    obtain rfl := Host.Outcome.next.inj ((he { s with bus := u.bus }).symm.trans ht)
    refine ⟨e.apply u, ?_, rfl, rfl, rfl, e.entries, [e.response], rfl, rfl, rfl, rfl⟩
    rw [hpast]
    exact he u

end Sys2Proof.Machine

/-! PROOFS. The sends of 41_panel_controller.md R133: a failed send is its BusError, and INIT_STATE has no writer but INIT. -/

namespace Sys2Proof.Machine

/-! ## What a send to the panel does -/

/-- With the latch clear, a SEND_CMD or SEND_DATA is its one transaction, under its control byte. -/
theorem exec_send_of_clear {bytes : List Byte} {i : Instr} (hi : i = .sendCmd bytes ∨ i = .sendData bytes) :
    ∃ ctrl, ∀ s, latchCheck s = none → exec i s = .next (respondTxn (panelSend ctrl bytes s)) := by
  rcases hi with rfl | rfl
  · exact ⟨ctrlCmd, fun s hl => by simp [exec, execSendCmd, hl]⟩
  · exact ⟨ctrlData, fun s hl => by simp [exec, execSendData, hl]⟩

/-- With the latch set, a SEND_CMD or SEND_DATA only answers (R131). -/
theorem exec_send_of_latched {bytes : List Byte} {i : Instr} (hi : i = .sendCmd bytes ∨ i = .sendData bytes)
    {s : State} {st : Status} (hl : latchCheck s = some st) : exec i s = .next (respond st s) := by
  rcases hi with rfl | rfl
  · simp [exec, execSendCmd, hl]
  · simp [exec, execSendData, hl]

/-! ## INIT_STATE has no writer but INIT -/

@[simp] theorem respondTxn_initState (r : State × Option Cause) : (respondTxn r).initState = r.1.initState := rfl

@[simp] theorem sendFrames_initState (fs : List Frame) (s : State) : (sendFrames fs s).1.initState = s.initState := by
  obtain ⟨-, -, hinit, -, -⟩ := sendFrames_frame fs s
  exact hinit

@[simp] theorem writeTxn_initState (addr : BusAddr) (ctrl : Byte) (payload : List Byte) (s : State) :
    (writeTxn addr ctrl payload s).1.initState = s.initState := by
  obtain ⟨fs, hfs⟩ := writeTxn_eq_sendFrames addr ctrl payload
  rw [hfs, sendFrames_initState]

@[simp] theorem panelSend_initState (ctrl : Byte) (payload : List Byte) (s : State) :
    (panelSend ctrl payload s).1.initState = s.initState := writeTxn_initState _ ctrl payload s

theorem exec_send_initState {bytes : List Byte} {i : Instr} (hi : i = .sendCmd bytes ∨ i = .sendData bytes)
    {s t : State} (ht : exec i s = .next t) : t.initState = s.initState := by
  cases hl : latchCheck s with
  | some st =>
    obtain rfl := Host.Outcome.next.inj ((exec_send_of_latched hi hl).symm.trans ht)
    rfl
  | none =>
    obtain ⟨ctrl, hctrl⟩ := exec_send_of_clear hi
    obtain rfl := Host.Outcome.next.inj ((hctrl s hl).symm.trans ht)
    exact panelSend_initState ctrl bytes s

theorem execFlush_initState {s t : State} (ht : execFlush s = .next t) : t.initState = s.initState := by
  by_cases hl : s.initState.state = .failed
  · simp only [execFlush, latchCheck, if_pos hl] at ht
    obtain rfl := Host.Outcome.next.inj ht
    rfl
  · obtain rfl := Host.Outcome.next.inj ((execFlush_eq hl).symm.trans ht)
    exact sendFrames_initState _ s

theorem execSetPixel_initState {x y : Coord} {on : Bool} {s t : State} (ht : execSetPixel x y on s = .next t) :
    t.initState = s.initState := by
  unfold execSetPixel at ht
  split at ht
  next hp =>
    obtain ⟨-, hx, -, hy⟩ := onPanel_iff.1 hp
    rw [storePixel_eq on s (by omega) (by omega)] at ht
    obtain rfl := Host.Outcome.next.inj ht
    rfl
  next =>
    obtain rfl := Host.Outcome.next.inj ht
    rfl

/-- Every instruction but INIT keeps INIT_STATE (10_state.md R26). -/
theorem exec_initState {i : Instr} (hi : i ≠ .init) {s t : State} (ht : exec i s = .next t) :
    t.initState = s.initState := by
  cases hop : i.isOperation with
  | false =>
    obtain ⟨v, hv⟩ := exec_wireByte hop
    obtain rfl := Host.Outcome.next.inj ((hv s).symm.trans ht)
    rfl
  | true =>
    cases i with
    | write addr ctrl payload =>
      obtain rfl := Host.Outcome.next.inj ht
      exact writeTxn_initState addr ctrl payload s
    | probe addr =>
      obtain rfl := Host.Outcome.next.inj ht
      rfl
    | scan => rw [exec_scan_eq_withHistory ht, withHistory_initState]
    | sendCmd bytes => exact exec_send_initState (.inl rfl) ht
    | sendData bytes => exact exec_send_initState (.inr rfl) ht
    | init => exact absurd rfl hi
    | setPixel x y on => exact execSetPixel_initState ht
    | clear =>
      obtain rfl := Host.Outcome.next.inj ht
      rfl
    | flush => exact execFlush_initState ht
    | _ => cases hop

/-! ## The obligation -/

/-- Settles O26: a clear send is its one frame, whose cause is the status; `exec_initState` is the rest. -/
theorem sendsPropagateBusErrors : Obligations.SendsPropagateBusErrors := by
  refine ⟨fun bytes s c hclear hne hc i hi => ?_, fun i s t hi ht => exec_initState hi ht⟩
  obtain ⟨ctrl, hctrl⟩ := exec_send_of_clear hi
  refine ⟨_, hctrl s (if_neg hclear), ?_⟩
  rw [panelSend_eq ctrl s hne]
  simp [respondTxn, hc, Status.ofCause]

end Sys2Proof.Machine

/-! PROOFS. SET_PIXEL's clipping (42_framebuffer.md R161): off the panel it only responds. -/

namespace Sys2Proof.Machine

/-- A coordinate on either side of [0, 72) × [0, 40) fails the panel check, before any index is computed. -/
theorem onPanel_eq_false {x y : Int} (h : x < 0 ∨ 72 ≤ x ∨ y < 0 ∨ 40 ≤ y) : onPanel x y = false := by
  rw [← Bool.not_eq_true, onPanel_iff]
  omega

/-- A clipped SET_PIXEL is only its response. -/
theorem exec_setPixel_of_offPanel {x y : Coord} (on : Bool) (s : State) (h : onPanel x.toInt y.toInt = false) :
    exec (.setPixel x y on) s = .next (respond .ok s) := by
  simp [exec, execSetPixel, h]

/-! ## The obligation -/

/-- Settles O34: the coordinate is off the panel, and a response leaves FB as it was. -/
theorem setPixelClipsOutsideThePanel : Obligations.SetPixelClipsOutsideThePanel := by
  intro x y on s h
  exact ⟨_, exec_setPixel_of_offPanel on s (onPanel_eq_false h), fun _ => rfl, rfl⟩

end Sys2Proof.Machine


/-! PROOFS. The FLUSH behind a failed FLUSH (44_flush.md R203): one lemma per way a FLUSH ends, and that any FLUSH submits the
first frames of the whole frame, at least one. -/

namespace Sys2Proof.Machine

/-! ## What a failed sequence logs -/

/-- The entries of frames sent up to frame `n`, the only one not acknowledged, with its outcome. -/
def failedEntries (fs : List Frame) (n : Nat) (hn : n < fs.length) (o : BusOutcome) : List LogEntry :=
  ackedEntries (fs.take n) ++ [⟨fs[n], .write, o⟩]

@[simp] theorem ackedEntries_frames (fs : List Frame) : (ackedEntries fs).map (·.frame) = fs := by
  simp [ackedEntries, Function.comp_def]

@[simp] theorem failedEntries_frames (fs : List Frame) {n : Nat} (hn : n < fs.length) (o : BusOutcome) :
    (failedEntries fs n hn o).map (·.frame) = fs.take (n + 1) := by
  rw [failedEntries, List.map_append, ackedEntries_frames]
  exact List.take_append_getElem hn

@[simp] theorem failedEntries_length (fs : List Frame) {n : Nat} (hn : n < fs.length) (o : BusOutcome) :
    (failedEntries fs n hn o).length = n + 1 := by
  simp [failedEntries, ackedEntries, hn.le]

/-! ## How a FLUSH with the latch clear ends -/

/-- FLUSH ends with FB and INIT_STATE as they were: it only adds to LOG and answers. -/
def flushCompletion (s : State) (entries : List LogEntry) (st : Status) : Completion :=
  ⟨s.fb, s.initState, entries, ⟨st, none⟩⟩

@[simp] theorem flushCompletion_apply_log (s : State) (entries : List LogEntry) (st : Status) :
    ((flushCompletion s entries st).apply s).log = s.log ++ entries := rfl

theorem exec_flush_of_allAcked {s : State} (hclear : s.initState.state ≠ .failed)
    (hack : AllAcked s.bus (flushFrames s.params s.fb).length) :
    exec .flush s = .next ((flushCompletion s (ackedEntries (flushFrames s.params s.fb)) .ok).apply s) := by
  obtain ⟨hcause, hstate⟩ := sendFrames_acked hack
  exact (execFlush_eq hclear).trans (congrArg _ (respondTxn_eq_apply hcause (by simp [ackedEntries]) hstate))

theorem exec_flush_of_firstFailure {s : State} {n : Nat} {c : Cause} (hclear : s.initState.state ≠ .failed)
    (hn : n < (flushFrames s.params s.fb).length) (hfail : FirstFailure s.bus n c) :
    exec .flush s = .next ((flushCompletion s
      (failedEntries (flushFrames s.params s.fb) n hn (s.bus.peek n)) (.busError c)).apply s) := by
  obtain ⟨hcause, hstate⟩ := sendFrames_failed hn hfail
  exact (execFlush_eq hclear).trans (congrArg _ (respondTxn_eq_apply hcause (failedEntries_length _ hn _) hstate))

theorem flushFrames_length_pos (p : Params) (m : Memory) : 0 < (flushFrames p m).length := by
  simp [flushFrames]

/-- Whatever the bus answers, FLUSH starts at page 0 and submits first frames of the whole frame, at least one. -/
theorem exec_flush_frames_eq_take {s : State} (hclear : s.initState.state ≠ .failed) :
    ∃ u m, exec .flush s = .next u ∧ 0 < m ∧ m ≤ (flushFrames s.params s.fb).length ∧
      u.log.map (·.frame) = s.log.map (·.frame) ++ (flushFrames s.params s.fb).take m := by
  rcases allAcked_or_firstFailure s.bus (flushFrames s.params s.fb).length with hack | ⟨n, c, hn, hfail⟩
  · exact ⟨_, _, exec_flush_of_allAcked hclear hack, flushFrames_length_pos _ _, le_rfl, by simp⟩
  · exact ⟨_, n + 1, exec_flush_of_firstFailure hclear hn hfail, n.succ_pos, hn, by simp⟩

/-! ## The obligation -/

/-- Settles O42: the failed FLUSH leaves FB, INIT_STATE and the configuration, so the next one has the same whole frame. -/
theorem nextFlushSendsTheWholeFrame : Obligations.NextFlushSendsTheWholeFrame := by
  intro s n c hn hclear hfail
  let e := flushCompletion s (failedEntries (flushFrames s.params s.fb) n hn (s.bus.peek n)) (.busError c)
  have ht : exec .flush s = .next (e.apply s) := exec_flush_of_firstFailure hclear hn hfail
  have hclear' : (e.apply s).initState.state ≠ .failed := hclear
  have hlength : e.entries.length = n + 1 := failedEntries_length _ hn _
  have hstate : e.apply s =
      { s with log := (e.apply s).log, responses := (e.apply s).responses, bus := s.bus.advance (n + 1), seq := .idle } := by
    rw [← hlength]
    rfl
  obtain ⟨u, m, hu, hpos, hle, hlog⟩ := exec_flush_frames_eq_take hclear'
  refine ⟨e.apply s, u, m, ht, rfl, rfl, rfl, ?_, hstate, hu, hpos, hle, hlog, fun hack => ?_⟩
  · exact List.length_append.trans (congrArg _ hlength)
  · obtain rfl := Host.Outcome.next.inj ((exec_flush_of_allAcked hclear' hack).symm.trans hu)
    exact ⟨rfl, rfl⟩

end Sys2Proof.Machine

/-! PROOFS. The start of the serial line (45_serial_line.md R221): READY's two events, then those of the input. -/

namespace Sys2Proof.Machine

@[simp] theorem serialStart_line : serialStart.1 = ⟨[]⟩ := rfl

/-- The two events of R221, the same whatever input follows. -/
@[simp] theorem serialStart_events : serialStart.2 = [.render readyLine, .echo readyLine] := rfl

/-- A run is the input's bytes on the empty buffer, its events behind those of the start-up. -/
theorem serialRun_eq (emptyLine : EmptyLine) (input : List Byte) :
    serialRun emptyLine input =
      ((onBytes emptyLine ⟨[]⟩ input).1, .render readyLine :: .echo readyLine :: (onBytes emptyLine ⟨[]⟩ input).2) := by
  simp [serialRun]

/-! ## The obligation -/

/-- Settles O54: the events and the final buffer of a run, with READY's bytes written out. -/
theorem serialLineStartsWithReady : Obligations.SerialLineStartsWithReady := by
  intro emptyLine input
  rw [serialRun_eq]
  exact ⟨rfl, rfl⟩

end Sys2Proof.Machine

/-! PROOFS. The request encoding (30_encoding.md section 1): each format's decoder answers exactly the encodings of its
operands, so decoding and encoding undo each other. And the wire bytes by their place (sections 2 and 3). -/

namespace Sys2Proof

/-! ## Each format, both ways -/

theorem payloadFits_iff {maxPayload : Nat} {payload : List Byte} :
    payloadFits maxPayload payload = true ↔ payload.length < 65536 ∧ payload.length ≤ maxPayload := by
  simp [payloadFits]

/-- The length field holds a fitting payload's length. -/
theorem join16_length {payload : List Byte} (h : payload.length < 65536) :
    (join16 (lowByte (BitVec.ofNat 16 payload.length)) (highByte (BitVec.ofNat 16 payload.length))).toNat =
      payload.length := by
  rw [join16_bytes, BitVec.toNat_ofNat]
  exact Nat.mod_eq_of_lt h

theorem encodePayload_of_length {l0 l1 : Byte} {payload : List Byte} (h : payload.length = (join16 l0 l1).toNat) :
    encodePayload payload = l0 :: l1 :: payload := by
  rw [encodePayload, h, BitVec.ofNat_toNat, BitVec.setWidth_eq, lowByte_join16, highByte_join16]

theorem decodeF0_eq_ok {i j : Instr} {bytes : List Byte} : decodeF0 i bytes = .ok j ↔ bytes = [] ∧ i = j := by
  cases bytes <;> simp [decodeF0]

theorem decodeF1_eq_ok {make : BusAddr → Instr} {bytes : List Byte} {i : Instr} :
    decodeF1 make bytes = .ok i ↔ ∃ addr, bytes = [addrOperand addr] ∧ make addr = i := by
  constructor
  · intro h
    unfold decodeF1 at h
    split at h
    next a =>
      split at h
      next => cases h
      next hbit =>
        refine ⟨a.truncate 7, ?_, Except.ok.inj h⟩
        rw [addrOperand_of_bit7 (by simpa using hbit)]
    next => cases h
  · rintro ⟨addr, rfl, rfl⟩
    simp [decodeF1]

theorem decodeF2_eq_ok {maxPayload : Nat} {make : BusAddr → Byte → List Byte → Instr} {bytes : List Byte} {i : Instr} :
    decodeF2 maxPayload make bytes = .ok i ↔ ∃ addr ctrl payload, payloadFits maxPayload payload = true ∧
      bytes = addrOperand addr :: ctrl :: encodePayload payload ∧ make addr ctrl payload = i := by
  constructor
  · intro h
    unfold decodeF2 at h
    split at h
    next a ctrl l0 l1 payload =>
      split_ifs at h with hlen hbit hmax
      rw [ne_eq, not_not] at hlen
      refine ⟨a.truncate 7, ctrl, payload, payloadFits_iff.2 ?_, ?_, Except.ok.inj h⟩
      · have := (join16 l0 l1).isLt
        omega
      · rw [addrOperand_of_bit7 (by simpa using hbit), encodePayload_of_length hlen]
    next => cases h
  · rintro ⟨addr, ctrl, payload, hfits, rfl, rfl⟩
    obtain ⟨h16, hmax⟩ := payloadFits_iff.1 hfits
    simp [decodeF2, encodePayload, join16_length h16, hmax, -join16_bytes]

theorem decodeF3_eq_ok {maxPayload : Nat} {make : List Byte → Instr} {bytes : List Byte} {i : Instr} :
    decodeF3 maxPayload make bytes = .ok i ↔ ∃ payload, payloadFits maxPayload payload = true ∧
      bytes = encodePayload payload ∧ make payload = i := by
  constructor
  · intro h
    unfold decodeF3 at h
    split at h
    next l0 l1 payload =>
      split_ifs at h with hlen hmax
      rw [ne_eq, not_not] at hlen
      refine ⟨payload, payloadFits_iff.2 ?_, (encodePayload_of_length hlen).symm, Except.ok.inj h⟩
      have := (join16 l0 l1).isLt
      omega
    next => cases h
  · rintro ⟨payload, hfits, rfl, rfl⟩
    obtain ⟨h16, hmax⟩ := payloadFits_iff.1 hfits
    simp [decodeF3, encodePayload, join16_length h16, hmax, -join16_bytes]

theorem decodeF4_eq_ok {make : Coord → Coord → Bool → Instr} {bytes : List Byte} {i : Instr} :
    decodeF4 make bytes = .ok i ↔ ∃ x y on,
      bytes = [lowByte x, highByte x, lowByte y, highByte y, encodeOn on] ∧ make x y on = i := by
  constructor
  · intro h
    unfold decodeF4 at h
    split at h
    next x0 x1 y0 y1 v =>
      split at h
      next b hb =>
        refine ⟨join16 x0 x1, join16 y0 y1, b, ?_, Except.ok.inj h⟩
        rw [encodeOn_of_decodeOn hb]
        simp
      next => cases h
    next => cases h
  · rintro ⟨x, y, on, rfl, rfl⟩
    simp [decodeF4]

/-! ## The op codes select the formats (R62) -/

theorem decode_opWrite (m : Nat) (bytes : List Byte) : decode m (opWrite :: bytes) = decodeF2 m .write bytes := rfl
theorem decode_opProbe (m : Nat) (bytes : List Byte) : decode m (opProbe :: bytes) = decodeF1 .probe bytes := rfl
theorem decode_opSendCmd (m : Nat) (bytes : List Byte) : decode m (opSendCmd :: bytes) = decodeF3 m .sendCmd bytes := rfl
theorem decode_opSendData (m : Nat) (bytes : List Byte) : decode m (opSendData :: bytes) = decodeF3 m .sendData bytes := rfl
theorem decode_opSetPixel (m : Nat) (bytes : List Byte) : decode m (opSetPixel :: bytes) = decodeF4 .setPixel bytes := rfl

/-! ## The obligations -/

/-- Settles O1: the op code selects the operation's format, whose decoder answers the encodings of its operands. -/
theorem decodeOfEncodeIsIdentity : Obligations.DecodeOfEncodeIsIdentity := by
  intro m i hop hwf
  cases i with
  | write addr ctrl payload => exact (decode_opWrite m _).trans (decodeF2_eq_ok.2 ⟨addr, ctrl, payload, hwf, rfl, rfl⟩)
  | probe addr => exact (decode_opProbe m _).trans (decodeF1_eq_ok.2 ⟨addr, rfl, rfl⟩)
  | sendCmd bytes => exact (decode_opSendCmd m _).trans (decodeF3_eq_ok.2 ⟨bytes, hwf, rfl, rfl⟩)
  | sendData bytes => exact (decode_opSendData m _).trans (decodeF3_eq_ok.2 ⟨bytes, hwf, rfl, rfl⟩)
  | setPixel x y on => exact (decode_opSetPixel m _).trans (decodeF4_eq_ok.2 ⟨x, y, on, rfl, rfl⟩)
  | scan => rfl
  | init => rfl
  | clear => rfl
  | flush => rfl
  | _ => cases hop

/-- Settles O2: the first byte is an op code, and the rest is an encoding of its format's operands. -/
theorem decodedRequestIsItsOwnEncoding : Obligations.DecodedRequestIsItsOwnEncoding := by
  intro m bytes i h
  cases bytes with
  | nil => cases h
  | cons op rest =>
    simp only [decode] at h
    split_ifs at h with hop hop hop hop hop hop hop hop hop <;> subst hop
    · obtain ⟨addr, ctrl, payload, hfits, rfl, rfl⟩ := decodeF2_eq_ok.1 h
      exact ⟨rfl, hfits, rfl⟩
    · obtain ⟨addr, rfl, rfl⟩ := decodeF1_eq_ok.1 h
      exact ⟨rfl, rfl, rfl⟩
    · obtain ⟨rfl, rfl⟩ := decodeF0_eq_ok.1 h
      exact ⟨rfl, rfl, rfl⟩
    · obtain ⟨payload, hfits, rfl, rfl⟩ := decodeF3_eq_ok.1 h
      exact ⟨rfl, hfits, rfl⟩
    · obtain ⟨payload, hfits, rfl, rfl⟩ := decodeF3_eq_ok.1 h
      exact ⟨rfl, hfits, rfl⟩
    · obtain ⟨rfl, rfl⟩ := decodeF0_eq_ok.1 h
      exact ⟨rfl, rfl, rfl⟩
    · obtain ⟨x, y, on, rfl, rfl⟩ := decodeF4_eq_ok.1 h
      exact ⟨rfl, rfl, rfl⟩
    · obtain ⟨rfl, rfl⟩ := decodeF0_eq_ok.1 h
      exact ⟨rfl, rfl, rfl⟩
    · obtain ⟨rfl, rfl⟩ := decodeF0_eq_ok.1 h
      exact ⟨rfl, rfl, rfl⟩

/-! ## Wire bytes by their place -/

/-- A byte is its high nibble above its low one. -/
theorem nibbles_append (v : Byte) : v.extractLsb' 4 4 ++ v.extractLsb' 0 4 = v := by
  revert v
  decide

/-- A pattern with a fixed high nibble is read as its low one, from no other byte. -/
theorem eq_append_of_nibble {hi : BitVec 4} {v : Byte} {make : BitVec 4 → Instr} {i : Instr}
    (h : (if v.extractLsb' 4 4 = hi then some (make (v.extractLsb' 0 4)) else none) = some i) :
    ∃ l, make l = i ∧ hi ++ l = v := by
  split_ifs at h with hhi
  exact ⟨_, Option.some.inj h, hhi ▸ nibbles_append v⟩

/-- A wire byte is read back in its place. -/
theorem decodeWire_encode {i : Instr} {slot : WireSlot} (h : i.wireSlot = some slot) :
    ∃ v, encode i = [v] ∧ decodeWire slot v = some i := by
  cases i with
  | wireAddrByte a => cases h; exact ⟨_, rfl, by revert a; decide⟩
  | wireCtrlCmd => cases h; exact ⟨_, rfl, rfl⟩
  | wireCtrlData => cases h; exact ⟨_, rfl, rfl⟩
  | wireLowCol l => cases h; exact ⟨_, rfl, by revert l; decide⟩
  | wireHighCol l => cases h; exact ⟨_, rfl, by revert l; decide⟩
  | wirePage p => cases h; exact ⟨_, rfl, by revert p; decide⟩
  | _ => cases h

/-- A byte accepted in a place is the wire byte it is read as. -/
theorem encode_of_decodeWire {slot : WireSlot} {v : Byte} {i : Instr} (h : decodeWire slot v = some i) :
    i.wireSlot = some slot ∧ encode i = [v] := by
  cases slot with
  | address =>
    simp only [decodeWire] at h
    split_ifs at h with hbit
    obtain rfl := Option.some.inj h
    refine ⟨rfl, congrArg (fun b => [b]) ?_⟩
    clear h
    revert v
    decide
  | control =>
    simp only [decodeWire] at h
    split_ifs at h with hcmd hdata
    · obtain rfl := Option.some.inj h
      exact ⟨rfl, congrArg (fun b => [b]) hcmd.symm⟩
    · obtain rfl := Option.some.inj h
      exact ⟨rfl, congrArg (fun b => [b]) hdata.symm⟩
  | lowColumn =>
    obtain ⟨l, rfl, rfl⟩ := eq_append_of_nibble h
    exact ⟨rfl, rfl⟩
  | highColumn =>
    obtain ⟨l, rfl, rfl⟩ := eq_append_of_nibble h
    exact ⟨rfl, rfl⟩
  | page =>
    obtain ⟨l, rfl, rfl⟩ := eq_append_of_nibble h
    exact ⟨rfl, rfl⟩

/-- Settles O3, by the place of the wire byte. -/
theorem wireBytesDecodeInTheirPlace : Obligations.WireBytesDecodeInTheirPlace :=
  ⟨fun _ _ => decodeWire_encode, fun _ _ _ => encode_of_decodeWire⟩

/-! ## Fixed words -/

/-- Settles O4: each word is evaluated. -/
theorem specWordsDecode : Obligations.SpecWordsDecode := by
  unfold Obligations.SpecWordsDecode
  decide

/-- Settles O6: the address byte is the address above a zero bit. -/
theorem addressByteIsAddressAndWriteBit : Obligations.AddressByteIsAddressAndWriteBit := by
  intro a
  rw [Machine.addrByte_eq]
  revert a
  decide

end Sys2Proof

/-! PROOFS. The values that leave the block: response bytes, the INIT_STATE word (10_state.md section 3), and the checks at
configuration time. -/

namespace Sys2Proof.Machine

/-! ## Response bytes -/

@[simp] theorem bitmapBytes_length (present : BitVec 128) : (bitmapBytes present).length = 16 := by simp [bitmapBytes]

/-- Address a is bit (a mod 8) of byte (a div 8) (R66). -/
theorem bitmapBytes_bit (present : BitVec 128) {a : Nat} (ha : a < 128) :
    ∃ v, (bitmapBytes present)[a / 8]? = some v ∧ v.getLsbD (a % 8) = present.getLsbD a := by
  have hbyte : a / 8 < 16 := by omega
  have hbit : a % 8 < 8 := by omega
  refine ⟨present.extractLsb' (8 * (a / 8)) 8, by simp [bitmapBytes, hbyte], ?_⟩
  rw [BitVec.getLsbD_extractLsb', Nat.div_add_mod]
  simp [hbit]

/-- Settles O8: the status bytes by cases, and the place of each address in the bitmap. -/
theorem responseBytesCarryStatusAndBitmap : Obligations.ResponseBytesCarryStatusAndBitmap := by
  refine ⟨fun st => ?_, fun present =>
    ⟨bitmapBytes present, rfl, bitmapBytes_length present, fun a ha => bitmapBytes_bit present ha⟩⟩
  cases st with
  | ok => rfl
  | illegalRequest => rfl
  | busError c => cases c <;> rfl
  | initError k c =>
    cases c with
    | none => rfl
    | some c => cases c <;> rfl

/-! ## INIT_STATE as a word -/

theorem phase_ofCode_eq_some {n : Nat} {st : Phase} : Phase.ofCode n = some st ↔ n = st.code := by
  unfold Phase.ofCode
  split_ifs <;> cases st <;> simp_all [Phase.code]

theorem phase_ofCode_eq_none {n : Nat} : Phase.ofCode n = none ↔ 3 ≤ n := by
  unfold Phase.ofCode
  split_ifs <;> simp <;> omega

theorem causeOfCode_eq_some {n : Nat} {c : Option Cause} : causeOfCode n = some c ↔ n = causeCode c := by
  unfold causeOfCode
  rcases c with _ | _ | _ <;> split_ifs <;> simp_all [causeCode]

theorem causeOfCode_eq_none {n : Nat} : causeOfCode n = none ↔ 3 ≤ n := by
  unfold causeOfCode
  split_ifs <;> simp <;> omega

theorem stepOfCode_eq_some {n : Nat} {k : StepNo} : stepOfCode n = some k ↔ n = k.val := by
  unfold stepOfCode
  split_ifs with hn
  · simp [Fin.ext_iff]
  · exact iff_of_false nofun fun h => hn (h ▸ k.isLt)

theorem stepOfCode_eq_none {n : Nat} : stepOfCode n = none ↔ 19 ≤ n := by
  simp [stepOfCode]

/-- The word `w` holds the fields of `r`, and zeros above them (R24). -/
structure InitState.InWord (r : InitState) (w : BitVec 16) : Prop where
  state : (w.extractLsb' 0 2).toNat = r.state.code
  cause : (w.extractLsb' 2 2).toNat = causeCode r.failCause
  step : (w.extractLsb' 4 5).toNat = r.failStep.val
  reserved : w.extractLsb' 9 7 = 0

/-- Reading a word answers the value whose fields it holds. -/
theorem initState_ofWord_eq_some {w : BitVec 16} {r : InitState} : InitState.ofWord w = some r ↔ r.InWord w := by
  unfold InitState.ofWord
  constructor
  · intro h
    split_ifs at h with hres
    split at h
    next st c k hst hc hk =>
      obtain rfl := Option.some.inj h
      exact ⟨phase_ofCode_eq_some.1 hst, causeOfCode_eq_some.1 hc, stepOfCode_eq_some.1 hk, not_not.1 hres⟩
    next => cases h
  · rintro ⟨hst, hc, hk, hres⟩
    rw [if_neg (not_not.2 hres), phase_ofCode_eq_some.2 hst, causeOfCode_eq_some.2 hc, stepOfCode_eq_some.2 hk]

/-- The word of a value holds its fields: 171 values. -/
theorem initState_toWord_inWord (r : InitState) : r.InWord r.toWord := by
  obtain ⟨st, c, k⟩ := r
  have hfields : ∀ k : StepNo,
      ((InitState.mk st c k).toWord.extractLsb' 0 2).toNat = st.code ∧
        ((InitState.mk st c k).toWord.extractLsb' 2 2).toNat = causeCode c ∧
        ((InitState.mk st c k).toWord.extractLsb' 4 5).toNat = k.val ∧
        (InitState.mk st c k).toWord.extractLsb' 9 7 = 0 := by
    cases st <;> rcases c with _ | _ | _ <;> decide
  obtain ⟨hst, hc, hk, hres⟩ := hfields k
  exact ⟨hst, hc, hk, hres⟩

/-- A word is its four fields, one above the other. -/
theorem word_eq_append_fields (w : BitVec 16) :
    w.extractLsb' 9 7 ++ w.extractLsb' 4 5 ++ w.extractLsb' 2 2 ++ w.extractLsb' 0 2 = w := by
  rw [BitVec.extractLsb'_append_extractLsb'_eq_extractLsb' (by rfl),
    BitVec.extractLsb'_append_extractLsb'_eq_extractLsb' (by rfl),
    BitVec.extractLsb'_append_extractLsb'_eq_extractLsb' (by rfl), BitVec.extractLsb'_eq_self]

/-- Only the value's own word holds its fields. -/
theorem initState_toWord_of_inWord {r : InitState} {w : BitVec 16} (h : r.InWord w) : r.toWord = w := by
  have h' := initState_toWord_inWord r
  have hstate := BitVec.eq_of_toNat_eq (h'.state.trans h.state.symm)
  have hcause := BitVec.eq_of_toNat_eq (h'.cause.trans h.cause.symm)
  have hstep := BitVec.eq_of_toNat_eq (h'.step.trans h.step.symm)
  rw [← word_eq_append_fields r.toWord, h'.reserved, hstep, hcause, hstate, ← h.reserved, word_eq_append_fields]

/-- A two-bit field holds the reserved value exactly if it is at least 3. -/
theorem three_le_toNat {v : BitVec 2} : 3 ≤ v.toNat ↔ v = 3 := by
  revert v
  decide

/-- A word is refused exactly if a field holds a reserved encoding. -/
theorem initState_ofWord_eq_none {w : BitVec 16} : InitState.ofWord w = none ↔
    (w.extractLsb' 0 2 = 3 ∨ w.extractLsb' 2 2 = 3 ∨ 19 ≤ (w.extractLsb' 4 5).toNat ∨ w.extractLsb' 9 7 ≠ 0) := by
  rw [← three_le_toNat, ← three_le_toNat, ← phase_ofCode_eq_none, ← causeOfCode_eq_none, ← stepOfCode_eq_none]
  unfold InitState.ofWord
  split_ifs with hres
  · exact iff_of_true rfl (.inr (.inr (.inr hres)))
  · split
    next st c k hst hc hk =>
      refine iff_of_false nofun ?_
      simpa only [hst, hc, hk, reduceCtorEq, false_or] using hres
    next hnone =>
      simp only [true_iff]
      by_contra hall
      push Not at hall
      obtain ⟨hst, hc, hk, -⟩ := hall
      obtain ⟨st, hst⟩ := Option.ne_none_iff_exists'.1 hst
      obtain ⟨c, hc⟩ := Option.ne_none_iff_exists'.1 hc
      obtain ⟨k, hk⟩ := Option.ne_none_iff_exists'.1 hk
      exact hnone st c k hst hc hk

/-- Settles O9: a value's word holds its fields, and no other word holds them. -/
theorem initStateWordHasItsFields : Obligations.InitStateWordHasItsFields := by
  refine ⟨fun r => ?_, fun w =>
    ⟨fun r hr => initState_toWord_of_inWord (initState_ofWord_eq_some.1 hr), initState_ofWord_eq_none⟩⟩
  have h := initState_toWord_inWord r
  refine ⟨h.state.trans ?_, h.cause.trans ?_, h.step, h.reserved, initState_ofWord_eq_some.2 h⟩
  · cases r.state <;> rfl
  · rcases r.failCause with _ | _ | _ <;> rfl

/-! ## Configuration time -/

theorem configure_eq_none {p : Params} : p.configure = none ↔ ¬p.wellFormed = true := by
  simp [Params.configure]

/-- The checks of R81 and 00_scope.md R7, as propositions. -/
theorem params_wellFormed_iff {p : Params} : p.wellFormed = true ↔
    p.initTable.length = 18 ∧ (∀ step ∈ p.initTable, step ≠ [] ∧ step.length ≤ p.maxPayload) ∧
      (p.initFraming = .single → p.initTable.flatten.length ≤ p.maxPayload) ∧ 72 ≤ p.maxPayload := by
  simp [Params.wellFormed, and_assoc, imp_iff_not_or]

/-- Settles O10: configuration refuses exactly the parameters that fail a check. -/
theorem configurationRefusesBadTables : Obligations.ConfigurationRefusesBadTables := fun _ =>
  configure_eq_none.trans params_wellFormed_iff.not

end Sys2Proof.Machine

/-! PROOFS. Reset, the host port and one step (70_reset_and_hazards.md section 1, 60_exceptions.md section 1): one equation
per kind of input. -/

namespace Sys2Proof.Machine

/-! ## One equation per input -/

theorem step_of_nil {s : State} (h : s.inputs = []) : step s = .next s := by
  simp [step, takeInput, h]

theorem step_of_reset {s : State} {rest : List HostInput} (h : s.inputs = .reset :: rest) :
    step s = .next (resetBlock { s with inputs := rest }) := by
  simp [step, takeInput, h]

theorem step_of_ok {s : State} {bytes : List Byte} {rest : List HostInput} {i : Instr}
    (h : s.inputs = .request bytes :: rest) (hi : decode s.params.maxPayload bytes = .ok i) :
    step s = exec i { s with inputs := rest } := by
  have hi' : decode (State.params { s with inputs := rest }).maxPayload bytes = .ok i := hi
  simp [step, takeInput, h, hi']

theorem step_of_error {s : State} {bytes : List Byte} {rest : List HostInput} {e : DecodeError}
    (h : s.inputs = .request bytes :: rest) (he : decode s.params.maxPayload bytes = .error e) :
    step s = .next (respond .illegalRequest { s with inputs := rest }) := by
  have he' : decode (State.params { s with inputs := rest }).maxPayload bytes = .error e := he
  simp [step, takeInput, h, he']

/-- Everything a step can be: waiting, the reset signal, an illegal request, or an operation. -/
theorem step_cases (s : State) :
    (s.inputs = [] ∧ step s = .next s) ∨
      (∃ rest, s.inputs = .reset :: rest ∧ step s = .next (resetBlock { s with inputs := rest })) ∨
      (∃ bytes rest, s.inputs = .request bytes :: rest ∧
        step s = .next (respond .illegalRequest { s with inputs := rest })) ∨
      ∃ bytes rest i, s.inputs = .request bytes :: rest ∧ decode s.params.maxPayload bytes = .ok i ∧
        i.isOperation = true ∧ step s = exec i { s with inputs := rest } := by
  cases h : s.inputs with
  | nil => exact .inl ⟨rfl, step_of_nil h⟩
  | cons x rest =>
    cases x with
    | reset => exact .inr (.inl ⟨rest, rfl, step_of_reset h⟩)
    | request bytes =>
      cases hd : decode s.params.maxPayload bytes with
      | error e => exact .inr (.inr (.inl ⟨bytes, rest, rfl, step_of_error h hd⟩))
      | ok i =>
        obtain ⟨hop, -, -⟩ := decodedRequestIsItsOwnEncoding _ _ _ hd
        exact .inr (.inr (.inr ⟨bytes, rest, i, rfl, hd, hop, step_of_ok h hd⟩))

/-! ## The obligations -/

@[simp] theorem read_nil (i : Nat) : Memory.read [] i = 0x00 := rfl

theorem initState_reset_toWord : InitState.reset.toWord = 0x0000 := by decide

theorem initState_reset_coherent : InitState.reset.Coherent := ⟨rfl, rfl⟩

/-- Settles O11: the fields of the reset state, whose memory lists no byte. -/
theorem resetStateIsUninitialised : Obligations.ResetStateIsUninitialised :=
  ⟨fun i _ => read_nil i, initState_reset_toWord, rfl, rfl, rfl⟩

/-- Settles O12: the framebuffer, LOG and the responses are empty. -/
theorem resetStateSatisfiesTheInvariant : Obligations.ResetStateSatisfiesTheInvariant where
  memory := rfl
  initState := initState_reset_coherent
  idle := rfl
  log := nofun
  responses := nofun

/-- Settles O13: the step is the reset event on the state with the signal taken off the port. -/
theorem resetEventClearsTheBlock : Obligations.ResetEventClearsTheBlock := fun _ _ h =>
  ⟨_, step_of_reset h, fun i _ => read_nil i, initState_reset_toWord, rfl, rfl, rfl, rfl, rfl, rfl⟩

/-- Settles O14: the equation of a step on a request that decodes. -/
theorem stepRunsTheDecodedRequest : Obligations.StepRunsTheDecodedRequest := fun _ _ _ _ => step_of_ok

/-- Settles O15: the response is the only change but for the port. -/
theorem illegalRequestOnlyAnswers : Obligations.IllegalRequestOnlyAnswers := fun _ _ _ _ h he =>
  ⟨step_of_error h he, rfl⟩

/-- Settles O16: the equation of a step without input. -/
theorem stepWaitsForInput : Obligations.StepWaitsForInput := fun _ => step_of_nil

end Sys2Proof.Machine

/-! PROOFS. The bus transport's operations and the sends to the panel (40_bus_transport.md, 41_panel_controller.md sections
1 to 3): the next state of each, written out. -/

namespace Sys2Proof.Machine

/-! ## One transaction -/

theorem ofCause_causeOf (o : BusOutcome) : Status.ofCause (causeOf o) = outcomeStatus o := by cases o <;> rfl

/-- An operation that is one write transaction, to its response. -/
theorem respondTxn_writeTxn (addr : BusAddr) (ctrl : Byte) (payload : List Byte) (s : State) :
    respondTxn (writeTxn addr ctrl payload s) =
      if payload = [] then { s with responses := s.responses ++ [⟨.ok, none⟩], seq := .idle }
      else
        { s with
          log := s.log ++ [⟨writeFrame addr ctrl payload, .write, s.bus.peek 0⟩]
          bus := s.bus.advance 1
          responses := s.responses ++ [⟨outcomeStatus (s.bus.peek 0), none⟩]
          seq := .idle } := by
  split
  next h => rw [h]; rfl
  next h => rw [writeTxn_eq addr ctrl s h, respondTxn, ofCause_causeOf]; rfl

/-- Settles O17: WRITE is its transaction. -/
theorem writeSubmitsOneFrame : Obligations.WriteSubmitsOneFrame := fun addr ctrl payload s =>
  congrArg Host.Outcome.next (respondTxn_writeTxn addr ctrl payload s)

/-- Settles O18: PROBE is its transaction. -/
theorem probeSubmitsItsAddressOnly : Obligations.ProbeSubmitsItsAddressOnly := by
  intro addr s
  rw [exec, execProbe, probeTxn_eq, respondTxn, ofCause_causeOf]
  rfl

/-! ## SCAN -/

/-- The scan range by its bounds (R108). -/
theorem scanRange_eq (p : Params) : scanRange p =
    (List.range (p.scanHi.toNat + 1 - p.scanLo.toNat)).map fun j => BitVec.ofNat 7 (p.scanLo.toNat + j) := by
  simp [scanRange, List.range'_eq_map_range, Function.comp_def]

@[simp] theorem scanRange_length (p : Params) : (scanRange p).length = p.scanHi.toNat + 1 - p.scanLo.toNat := by
  simp [scanRange]

/-- Probe j goes to address SCAN_LO + j, which the range's bounds keep below 128. -/
theorem scanRange_getElem_toNat (p : Params) {j : Nat} (hj : j < p.scanHi.toNat + 1 - p.scanLo.toNat) :
    ((scanRange p)[j]?).map (·.toNat) = some (p.scanLo.toNat + j) := by
  have hlt : p.scanLo.toNat + j < 128 := by
    have := p.scanHi.isLt
    omega
  simp [scanRange_eq, hj, hlt]

/-- The bitmap of a scan: the addresses of its range whose probe was acknowledged. -/
theorem scanLoop_present (s : State) (a : BusAddr) :
    (scanLoop (scanRange s.params) 0 s).1.getLsbD a.toNat = true ↔
      (s.params.scanLo ≤ a ∧ a ≤ s.params.scanHi ∧ s.bus.peek (a.toNat - s.params.scanLo.toNat) = .ack) := by
  have hbits := (scanLoop_eq (scanRange s.params) 0 s).2 a.toNat
  rw [hbits]
  simp only [BitVec.ofNat_eq_ofNat, BitVec.getLsbD_zero, Bool.false_or, List.any_eq_true, List.mem_range,
    scanRange_length, decide_eq_true_eq, BitVec.le_def]
  constructor
  · rintro ⟨j, hj, haddr, hack⟩
    rw [scanRange_getElem_toNat _ hj, Option.some_inj] at haddr
    rw [← haddr, Nat.add_sub_cancel_left]
    exact ⟨by omega, by omega, hack⟩
  · rintro ⟨hlo, hhi, hack⟩
    refine ⟨a.toNat - s.params.scanLo.toNat, by omega, ?_, hack⟩
    rw [scanRange_getElem_toNat _ (by omega), Nat.add_sub_cancel' hlo]

/-- Settles O19: SCAN's completion over its range, and its bitmap. -/
theorem scanReportsWhoAcknowledged : Obligations.ScanReportsWhoAcknowledged := by
  intro s
  refine ⟨(scanLoop (scanRange s.params) 0 s).1, (scan_completes s s).trans (congrArg _ ?_), scanLoop_present s⟩
  rw [← scanRange_eq, ← scanRange_length]
  simp [Completion.apply, scanCompletion, scanEntries]

theorem scanEntries_getElem (e : BusEnv) (addrs : List BusAddr) (j : Nat) :
    (scanEntries e addrs)[j]? = (addrs[j]?).map fun a => ⟨probeFrame a, .probe, e.peek j⟩ := by
  simp [scanEntries]

/-- Settles O20: the bounds of `scanReportsWhoAcknowledged` are numbers here. -/
theorem scanProbesTheValidRange : Obligations.ScanProbesTheValidRange := by
  intro s hlo hhi
  obtain ⟨present, hexec, hbits⟩ := scanReportsWhoAcknowledged s
  have hcount : s.params.scanHi.toNat + 1 - s.params.scanLo.toNat = 117 := by rw [hlo, hhi]; rfl
  rw [hcount] at hexec
  refine ⟨_, present, hexec, rfl, by simp [scanEntries], fun j hj => ?_, fun a ha => ?_, rfl, rfl⟩
  · rw [List.getElem?_append_right (Nat.le_add_right _ _), Nat.add_sub_cancel_left, scanEntries_getElem, hlo]
    simp [hj]
  · by_cases h128 : a < 128
    · have hiff := hbits (BitVec.ofNat 7 a)
      rw [BitVec.toNat_ofNat, Nat.mod_eq_of_lt h128, hlo, hhi, BitVec.le_def, BitVec.le_def, BitVec.toNat_ofNat,
        Nat.mod_eq_of_lt h128] at hiff
      rw [← Bool.not_eq_true, hiff]
      rintro ⟨hle, hge, -⟩
      simp at hle hge
      omega
    · exact BitVec.getLsbD_of_ge _ _ (by omega)

/-! ## The latch and the sends -/

/-- With the latch set, a panel operation only answers (R131). -/
theorem exec_of_latched {i : Instr}
    (hi : (∃ bytes, i = .sendCmd bytes) ∨ (∃ bytes, i = .sendData bytes) ∨ i = .init ∨ i = .flush)
    {s : State} {st : Status} (hl : latchCheck s = some st) : exec i s = .next (respond st s) := by
  rcases hi with ⟨bytes, rfl⟩ | ⟨bytes, rfl⟩ | rfl | rfl
  · exact exec_send_of_latched (.inl rfl) hl
  · exact exec_send_of_latched (.inr rfl) hl
  · simp [exec, execInit, hl]
  · simp [exec, execFlush, hl]

/-- Settles O23: the latch check answers for all four. -/
theorem failedLatchStopsPanelOperations : Obligations.FailedLatchStopsPanelOperations := fun _ hs _ hi =>
  exec_of_latched hi (if_pos hs)

/-- Settles O24: behind the clear latch, SEND_CMD is its transaction. -/
theorem sendCmdIsACommandFrameToThePanel : Obligations.SendCmdIsACommandFrameToThePanel := by
  intro bytes s hclear
  have hl : latchCheck s = none := if_neg hclear
  rw [exec, execSendCmd, hl]
  exact congrArg Host.Outcome.next (respondTxn_writeTxn s.params.panelAddr 0x00 bytes s)

/-- Settles O25: behind the clear latch, SEND_DATA is its transaction. -/
theorem sendDataIsADataFrameToThePanel : Obligations.SendDataIsADataFrameToThePanel := by
  intro bytes s hclear
  have hl : latchCheck s = none := if_neg hclear
  rw [exec, execSendData, hl]
  exact congrArg Host.Outcome.next (respondTxn_writeTxn s.params.panelAddr 0x40 bytes s)

/-! ## Wire bytes -/

/-- Settles O44: each row composes its byte, whose pattern is the byte's lemma. -/
theorem wireBytesJoinTheFrameInFlight : Obligations.WireBytesJoinTheFrameInFlight := by
  intro s
  refine ⟨fun a => ?_, rfl, rfl, fun l => ?_, fun h => ?_, fun p => ?_⟩
  · rw [← addrByte_eq]; rfl
  · rw [← lowColCmd_nibble]; rfl
  · rw [← highColCmd_nibble]; rfl
  · rw [← pageCmd_nibble]; rfl

end Sys2Proof.Machine

/-! PROOFS. INIT (41_panel_controller.md section 4): one loop under both framings, and one lemma per way it ends. -/

namespace Sys2Proof.Machine

/-! ## INIT is one loop -/

/-- What INIT's loop runs over: the steps of the table, or under SINGLE all its bytes as step 1. -/
def initPlan (p : Params) : List (StepNo × List Byte) :=
  match p.initFraming with
  | .perStep => initSteps p
  | .single => [(1, p.initTable.flatten)]

/-- Behind the clear latch, INIT is its loop. -/
theorem exec_init_of_clear {s : State} (hclear : s.initState.state ≠ .failed) :
    exec .init s = .next (initLoop (initPlan s.params) s) := by
  have hl : latchCheck s = none := if_neg hclear
  cases hf : s.params.initFraming <;> simp [exec, execInit, hl, hf, initPlan, initSingle_eq_initLoop]

theorem initPlan_ne (s : State) : ∀ st ∈ initPlan s.params, st.2 ≠ [] := by
  unfold initPlan
  split
  next => exact initSteps_ne s
  next => simpa using initTable_flatten_ne s

/-- The loop's frames are the spec's (30_encoding.md R82). -/
theorem stepFrames_initPlan (s : State) : stepFrames s.params.panelAddr (initPlan s.params) = initFrames s.params := by
  cases hf : s.params.initFraming with
  | perStep => simpa [initPlan, initFrames, hf] using stepFrames_initSteps s
  | single => simp [initPlan, initFrames, hf, stepFrames]

theorem initPlan_length (s : State) : (initPlan s.params).length = (initFrames s.params).length := by
  rw [← stepFrames_initPlan, stepFrames, List.length_map]

theorem initFrames_getElem (s : State) {n : Nat} (hn : n < (initFrames s.params).length) :
    (initFrames s.params)[n] =
      writeFrame s.params.panelAddr ctrlCmd ((initPlan s.params)[n]'(initPlan_length s ▸ hn)).2 := by
  simp only [← stepFrames_initPlan, stepFrames, List.getElem_map]

/-- The steps are numbered from 1. -/
theorem initPlan_number (s : State) {n : Nat} (hn : n < (initPlan s.params).length) :
    ((initPlan s.params)[n]).1.val = n + 1 := by
  cases hf : s.params.initFraming with
  | perStep =>
    have h18 : n < 18 := by simpa [initPlan, hf] using hn
    simp [initPlan, hf, initSteps, Nat.mod_eq_of_lt (Nat.succ_lt_succ h18)]
  | single =>
    obtain rfl : n = 0 := by simpa [initPlan, hf] using hn
    simp [initPlan, hf]

/-! ## How an INIT with the latch clear ends -/

/-- INIT ends with FB as it was. -/
def initCompletion (s : State) (r : InitState) (entries : List LogEntry) (st : Status) : Completion :=
  ⟨s.fb, r, entries, ⟨st, none⟩⟩

theorem exec_init_of_allAcked {s : State} (hclear : s.initState.state ≠ .failed)
    (hack : AllAcked s.bus (initFrames s.params).length) :
    exec .init s = .next ((initCompletion s ⟨.ready, none, 0⟩ (ackedEntries (initFrames s.params)) .ok).apply s) := by
  rw [exec_init_of_clear hclear, initLoop_acked (initPlan_ne s) (initPlan_length s ▸ hack), stepFrames_initPlan,
    initPlan_length]
  simp [initReady, respond, respondWith, Completion.apply, initCompletion, ackedEntries]

theorem exec_init_of_firstFailure {s : State} {n : Nat} {c : Cause} (hclear : s.initState.state ≠ .failed)
    (hn : n < (initFrames s.params).length) (hfail : FirstFailure s.bus n c) :
    ∃ k : StepNo, k.val = n + 1 ∧
      exec .init s = .next ((initCompletion s ⟨.failed, some c, k⟩
        (failedEntries (initFrames s.params) n hn (s.bus.peek n)) (.initError k (some c))).apply s) := by
  have hn' : n < (initPlan s.params).length := initPlan_length s ▸ hn
  refine ⟨((initPlan s.params)[n]).1, initPlan_number s hn', ?_⟩
  rw [exec_init_of_clear hclear, initLoop_failed (initPlan_ne s) hn' hfail, stepFrames_initPlan, ← initFrames_getElem s hn]
  simp only [initFailed, respond, respondWith, Completion.apply, initCompletion, failedEntries_length]
  rfl

/-! ## The obligations -/

theorem initFrames_length (s : State) :
    (initFrames s.params).length = match s.params.initFraming with | .perStep => 18 | .single => 1 := by
  obtain ⟨hlength, -, -⟩ := initTable_wf s
  cases hf : s.params.initFraming <;> simp [initFrames, hf, hlength]

/-- Settles O27: the loop ends behind the frames of the table. -/
theorem initSendsItsTableAndBecomesReady : Obligations.InitSendsItsTableAndBecomesReady := by
  intro s hclear hack
  refine ⟨(exec_init_of_allAcked hclear hack).trans ?_, initFrames_length s⟩
  simp [Completion.apply, initCompletion, ackedEntries]

/-- Settles O28: the loop ends at frame n, which is step n + 1. -/
theorem initLatchesItsFirstFailure : Obligations.InitLatchesItsFirstFailure := by
  intro s n c hn hclear hfail
  obtain ⟨k, hk, hexec⟩ := exec_init_of_firstFailure hclear hn hfail
  refine ⟨k, hk, hexec.trans ?_⟩
  simp only [Completion.apply, initCompletion, failedEntries_length]
  simp only [failedEntries, List.append_assoc]

/-- Settles O29: each way INIT can end reads nothing of FB and leaves it. -/
theorem initDoesNotTouchTheFramebuffer : Obligations.InitDoesNotTouchTheFramebuffer := by
  intro s m
  by_cases hclear : s.initState.state = .failed
  · exact ⟨_, exec_of_latched (by simp) (if_pos hclear), rfl,
      exec_of_latched (s := { s with fb := m }) (by simp) (if_pos hclear)⟩
  · rcases allAcked_or_firstFailure s.bus (initFrames s.params).length with hack | ⟨n, c, hn, hfail⟩
    · exact ⟨_, exec_init_of_allAcked hclear hack, rfl, exec_init_of_allAcked (s := { s with fb := m }) hclear hack⟩
    · obtain ⟨k, hk, hexec⟩ := exec_init_of_firstFailure hclear hn hfail
      obtain ⟨k', hk', hexec'⟩ := exec_init_of_firstFailure (s := { s with fb := m }) hclear hn hfail
      obtain rfl : k' = k := Fin.ext (hk'.trans hk.symm)
      exact ⟨_, hexec, rfl, hexec'⟩

/-- INIT behind a set latch leaves the register; else it becomes READY, or FAILED with a cause and a step number. -/
theorem exec_init_initState {s t : State} (ht : exec .init s = .next t) :
    t.initState = s.initState ∨ (s.initState.state ≠ .failed ∧
      (t.initState = ⟨.ready, none, 0⟩ ∨ ∃ c k, k ≠ 0 ∧ t.initState = ⟨.failed, some c, k⟩)) := by
  by_cases hclear : s.initState.state = .failed
  · obtain rfl := Host.Outcome.next.inj ((exec_of_latched (by simp) (if_pos hclear)).symm.trans ht)
    exact .inl rfl
  · refine .inr ⟨hclear, ?_⟩
    rcases allAcked_or_firstFailure s.bus (initFrames s.params).length with hack | ⟨n, c, hn, hfail⟩
    · obtain rfl := Host.Outcome.next.inj ((exec_init_of_allAcked hclear hack).symm.trans ht)
      exact .inl rfl
    · obtain ⟨k, hk, hexec⟩ := exec_init_of_firstFailure hclear hn hfail
      obtain rfl := Host.Outcome.next.inj (hexec.symm.trans ht)
      exact .inr ⟨c, k, fun h => by simp [h] at hk, rfl⟩

/-- Settles O30: of the steps only the reset signal and an INIT write the register. -/
theorem onlyInitAndResetChangeInitState : Obligations.OnlyInitAndResetChangeInitState := by
  intro s t ht
  rcases step_cases s with ⟨-, hs⟩ | ⟨rest, hin, hs⟩ | ⟨bytes, rest, -, hs⟩ | ⟨bytes, rest, i, hin, hdec, -, hs⟩
  · obtain rfl := Host.Outcome.next.inj (hs.symm.trans ht)
    exact .inl rfl
  · obtain rfl := Host.Outcome.next.inj (hs.symm.trans ht)
    exact .inr (.inl ⟨rest, hin, rfl⟩)
  · obtain rfl := Host.Outcome.next.inj (hs.symm.trans ht)
    exact .inl rfl
  · have hexec := hs.symm.trans ht
    by_cases hi : i = .init
    · subst hi
      exact (exec_init_initState hexec).imp_right fun ⟨hclear, hnew⟩ => .inr ⟨hclear, ⟨bytes, rest, hin, hdec⟩, hnew⟩
    · have hkept := exec_initState hi hexec
      exact .inl hkept

end Sys2Proof.Machine

/-! PROOFS. FLUSH (44_flush.md): its frames where all are acknowledged and up to the first that is not, and the pixels its
data frames carry. -/

namespace Sys2Proof.Machine

theorem flushFrames_length (p : Params) (m : Memory) :
    (flushFrames p m).length = match p.flushFraming with | .triplet => 10 | .separate => 20 := by
  cases hf : p.flushFraming <;> simp [flushFrames, addressingFrames, hf]

/-- Settles O40: the completion of an acknowledged FLUSH, and the number of its frames. -/
theorem flushSendsEveryPageInOrder : Obligations.FlushSendsEveryPageInOrder := by
  intro s hclear hack
  refine ⟨(exec_flush_of_allAcked hclear hack).trans ?_, flushFrames_length s.params s.fb⟩
  simp [Completion.apply, flushCompletion, ackedEntries]

/-- Settles O41: the completion of a FLUSH that fails at frame n. -/
theorem flushStopsAtItsFirstFailure : Obligations.FlushStopsAtItsFirstFailure := by
  intro s n c hn hclear hfail
  refine (exec_flush_of_firstFailure hclear hn hfail).trans ?_
  simp only [Completion.apply, flushCompletion, failedEntries_length]
  simp only [failedEntries, List.append_assoc]

/-! ## The data frames -/

/-- Where page n's data frame stands in FLUSH: the last of its two or four frames. -/
def dataFramePlace (framing : FlushFraming) (n : Nat) : Nat :=
  match framing with
  | .triplet => 2 * n + 1
  | .separate => 4 * n + 3

theorem flushFrames_dataFrame (p : Params) (m : Memory) {n : Nat} (hn : n < 5) :
    (flushFrames p m)[dataFramePlace p.flushFraming n]? = some (dataFrame p m n) := by
  cases hf : p.flushFraming <;> simp only [flushFrames, addressingFrames, hf] <;> interval_cases n <;> rfl

/-- Payload byte j stands behind start, address byte and control byte. -/
theorem writeFrame_payload_getElem (addr : BusAddr) (ctrl : Byte) {payload : List Byte} {j : Nat}
    (hj : j < payload.length) : (writeFrame addr ctrl payload)[3 + j]? = some (.byte payload[j]) := by
  rw [Nat.add_comm]
  simp [writeFrame, List.getElem?_append_left, hj]

theorem dataFrame_getElem (p : Params) (m : Memory) (n : Nat) {j : Nat} (hj : j < 72) :
    (dataFrame p m n)[3 + j]? = some (.byte (m.read (n * 72 + j))) := by
  rw [dataFrame, writeFrame_payload_getElem _ _ (by simpa using hj)]
  simp

/-- Bit b of byte j of page p is the pixel (j, 8p + b). -/
theorem lit_of_page (m : Memory) (p j : Nat) {b : Nat} (hb : b < 8) :
    lit m j (8 * p + b) = (m.read (p * 72 + j)).getLsbD b := by
  have hpage : (8 * p + b) / 8 = p := by omega
  have hbit : (8 * p + b) % 8 = b := by omega
  simp only [lit, pixelIndex, pixelBit, hpage, hbit]

/-- Settles O43: the page's data frame is in LOG at its place. -/
theorem flushDataFramesCarryThePixels : Obligations.FlushDataFramesCarryThePixels := by
  intro s p j b hp hj hb hclear hack
  refine ⟨_, ⟨dataFrame s.params s.fb p, .write, .ack⟩, _, exec_flush_of_allAcked hclear hack, ?_,
    dataFrame_getElem s.params s.fb p hj, rfl, (lit_of_page s.fb p j hb).symm⟩
  rw [flushCompletion_apply_log, List.getElem?_append_right (Nat.le_add_right _ _), Nat.add_sub_cancel_left,
    ackedEntries, List.getElem?_map]
  exact congrArg (Option.map _) (flushFrames_dataFrame s.params s.fb hp)

end Sys2Proof.Machine

/-! PROOFS. The framebuffer (42_framebuffer.md, 20_memory.md section 1): SET_PIXEL as a function on memory, what a pixel reads
after it, and CLEAR as a loop of writes. -/

namespace Sys2Proof.Machine

/-! ## Pixels and bytes -/

theorem pixelIndex_eq (x y : Nat) : pixelIndex x y = y / 8 * 72 + x := rfl

theorem pixelBit_eq (y : Nat) : pixelBit y = y % 8 := rfl

/-- Settles O32, by the division of an index by 72 and of a row by 8. -/
theorem pixelMappingIsABijection : Obligations.PixelMappingIsABijection := by
  simp only [Obligations.PixelMappingIsABijection, pixelIndex_eq, pixelBit_eq]
  exact ⟨fun x y hx hy => by omega, fun i b hi hb => by omega⟩

/-- Two pixels of the panel in the same bit of the same byte are the same. -/
theorem pixel_ext {x y x' y' : Nat} (hx : x < 72) (hx' : x' < 72) (hindex : pixelIndex x' y' = pixelIndex x y)
    (hbit : pixelBit y' = pixelBit y) : x' = x ∧ y' = y := by
  rw [pixelIndex_eq, pixelIndex_eq] at hindex
  rw [pixelBit_eq, pixelBit_eq] at hbit
  omega

theorem pixelMask_bit (y b : Nat) : (pixelMask y).getLsbD b = decide (b = pixelBit y) := by
  have hbit : pixelBit y < 8 := Nat.mod_lt y (by omega)
  simp only [pixelMask, BitVec.getLsbD_shiftLeft, BitVec.getLsbD_one]
  by_cases h : b = pixelBit y <;> simp [h] <;> omega

/-- Packing a pixel sets its bit and keeps the others. -/
theorem packPixel_bit (v : Byte) (y : Nat) (on : Bool) {b : Nat} (hb : b < 8) :
    (packPixel v y on).getLsbD b = if b = pixelBit y then on else v.getLsbD b := by
  cases on with
  | true =>
    simp only [packPixel, if_true, BitVec.getLsbD_or, pixelMask_bit]
    by_cases h : b = pixelBit y <;> simp only [h, decide_true, decide_false, Bool.or_true, Bool.or_false, if_true, if_false]
  | false =>
    simp only [packPixel, Bool.false_eq_true, if_false, BitVec.getLsbD_and, BitVec.getLsbD_not, pixelMask_bit, hb]
    by_cases h : b = pixelBit y <;> simp [h]

/-! ## Storing a pixel -/

/-- The memory with one pixel of the panel set or cleared. -/
def paint (m : Memory) (x y : Nat) (on : Bool) : Memory :=
  m.write (pixelIndex x y) (packPixel (m.read (pixelIndex x y)) y on)

theorem wf_paint {m : Memory} {x y : Nat} (on : Bool) (h : m.wf = true) (hx : x < 72) (hy : y < 40) :
    (paint m x y on).wf = true := wf_write _ h (pixelIndex_lt hx hy)

theorem read_paint {m : Memory} (h : m.wf = true) (x y : Nat) (on : Bool) (i : Nat) :
    (paint m x y on).read i = if i = pixelIndex x y then packPixel (m.read i) y on else m.read i := by
  rw [paint, read_write h]
  split
  next hi => rw [hi]
  next => rfl

/-- The bit of a byte after a pixel is stored, for any byte and bit. -/
theorem paint_bit {m : Memory} (h : m.wf = true) (x y : Nat) (on : Bool) (i : Nat) {b : Nat} (hb : b < 8) :
    ((paint m x y on).read i).getLsbD b =
      if i = pixelIndex x y ∧ b = pixelBit y then on else (m.read i).getLsbD b := by
  rw [read_paint h]
  by_cases hi : i = pixelIndex x y <;> simp [hi, packPixel_bit _ _ _ hb]

/-- A pixel reads as it was stored, every other one as before. -/
theorem lit_paint {m : Memory} (h : m.wf = true) {x y x' : Nat} (hx : x < 72) (hx' : x' < 72) (y' : Nat) (on : Bool) :
    lit (paint m x y on) x' y' = if x' = x ∧ y' = y then on else lit m x' y' := by
  have hb : pixelBit y' < 8 := Nat.mod_lt y' (by omega)
  have hiff : (pixelIndex x' y' = pixelIndex x y ∧ pixelBit y' = pixelBit y) ↔ (x' = x ∧ y' = y) :=
    ⟨fun ⟨hindex, hbit⟩ => pixel_ext hx hx' hindex hbit, fun ⟨hxx, hyy⟩ => by rw [hxx, hyy]; exact ⟨rfl, rfl⟩⟩
  rw [lit, paint_bit h _ _ _ _ hb, if_congr hiff rfl rfl]
  rfl

/-- Canonical memories are equal if all bits of all bytes are. -/
theorem wf_ext_bits {m n : Memory} (hm : m.wf = true) (hn : n.wf = true)
    (h : ∀ i b, b < 8 → (m.read i).getLsbD b = (n.read i).getLsbD b) : m = n :=
  wf_ext hm hn fun i => BitVec.eq_of_getLsbD_eq fun b hb => h i b hb

/-- Different pixels can be stored in either order. -/
theorem paint_comm {m : Memory} (h : m.wf = true) {x y x' y' : Nat} (hx : x < 72) (hy : y < 40) (hx' : x' < 72)
    (hy' : y' < 40) (hne : ¬(x' = x ∧ y' = y)) (on on' : Bool) :
    paint (paint m x y on) x' y' on' = paint (paint m x' y' on') x y on := by
  have hwf := wf_paint on h hx hy
  have hwf' := wf_paint on' h hx' hy'
  refine wf_ext_bits (wf_paint on' hwf hx' hy') (wf_paint on hwf' hx hy) fun i b hb => ?_
  rw [paint_bit hwf _ _ _ _ hb, paint_bit h _ _ _ _ hb, paint_bit hwf' _ _ _ _ hb, paint_bit h _ _ _ _ hb]
  by_cases hp : i = pixelIndex x y ∧ b = pixelBit y
  · have hp' : ¬(i = pixelIndex x' y' ∧ b = pixelBit y') := fun ⟨hi, hbit⟩ =>
      hne (pixel_ext hx hx' (hi.symm.trans hp.1) (hbit.symm.trans hp.2))
    rw [if_neg hp', if_pos hp, if_pos hp]
  · rw [if_neg hp, if_neg hp]

/-- Of two stores to one pixel the later decides. -/
theorem paint_paint {m : Memory} (h : m.wf = true) {x y : Nat} (hx : x < 72) (hy : y < 40) (on on' : Bool) :
    paint (paint m x y on) x y on' = paint m x y on' := by
  have hwf := wf_paint on h hx hy
  refine wf_ext_bits (wf_paint on' hwf hx hy) (wf_paint on' h hx hy) fun i b hb => ?_
  rw [paint_bit hwf _ _ _ _ hb, paint_bit h _ _ _ _ hb, paint_bit h _ _ _ _ hb]
  split <;> rfl

/-! ## SET_PIXEL -/

/-- What SET_PIXEL makes of the framebuffer: a store on the panel, nothing outside. -/
def paintCoord (m : Memory) (x y : Coord) (on : Bool) : Memory :=
  if onPanel x.toInt y.toInt then paint m x.toInt.toNat y.toInt.toNat on else m

theorem exec_setPixel_eq (x y : Coord) (on : Bool) (s : State) :
    exec (.setPixel x y on) s = .next (respond .ok { s with fb := paintCoord s.fb x y on }) := by
  cases hp : onPanel x.toInt y.toInt with
  | false => simp [exec_setPixel_of_offPanel on s hp, paintCoord, hp]
  | true =>
    obtain ⟨-, hx, -, hy⟩ := onPanel_iff.1 hp
    have hstore := storePixel_eq (x := x.toInt.toNat) (y := y.toInt.toNat) on s (by omega) (by omega)
    simp [exec, execSetPixel, hp, hstore, andThen, paintCoord, paint]

theorem paintCoord_of_onPanel {x y : Coord} (h : onPanel x.toInt y.toInt = true) (m : Memory) (on : Bool) :
    paintCoord m x y on = paint m x.toInt.toNat y.toInt.toNat on := if_pos h

theorem paintCoord_of_offPanel {x y : Coord} (h : onPanel x.toInt y.toInt = false) (m : Memory) (on : Bool) :
    paintCoord m x y on = m := if_neg (by simp [h])

theorem wf_paintCoord {m : Memory} (h : m.wf = true) (x y : Coord) (on : Bool) : (paintCoord m x y on).wf = true := by
  cases hp : onPanel x.toInt y.toInt with
  | false => rwa [paintCoord_of_offPanel hp]
  | true =>
    obtain ⟨-, hx, -, hy⟩ := onPanel_iff.1 hp
    rw [paintCoord_of_onPanel hp]
    exact wf_paint on h (by omega) (by omega)

/-- SET_PIXELs at different coordinates commute, on the panel or clipped. -/
theorem paintCoord_comm {m : Memory} (h : m.wf = true) {x y x' y' : Coord} (hne : (x, y) ≠ (x', y')) (on on' : Bool) :
    paintCoord (paintCoord m x y on) x' y' on' = paintCoord (paintCoord m x' y' on') x y on := by
  cases hp : onPanel x.toInt y.toInt with
  | false => rw [paintCoord_of_offPanel hp, paintCoord_of_offPanel hp]
  | true =>
    cases hp' : onPanel x'.toInt y'.toInt with
    | false => rw [paintCoord_of_offPanel hp', paintCoord_of_offPanel hp']
    | true =>
      simp only [paintCoord_of_onPanel hp, paintCoord_of_onPanel hp']
      rw [onPanel_iff] at hp hp'
      refine paint_comm h (by omega) (by omega) (by omega) (by omega) (fun ⟨hx, hy⟩ => hne ?_) on on'
      have hxx : x = x' := BitVec.eq_of_toInt_eq (by omega)
      have hyy : y = y' := BitVec.eq_of_toInt_eq (by omega)
      rw [hxx, hyy]

theorem paintCoord_paintCoord {m : Memory} (h : m.wf = true) (x y : Coord) (on on' : Bool) :
    paintCoord (paintCoord m x y on) x y on' = paintCoord m x y on' := by
  cases hp : onPanel x.toInt y.toInt with
  | false => simp only [paintCoord_of_offPanel hp]
  | true =>
    obtain ⟨-, hx, -, hy⟩ := onPanel_iff.1 hp
    simp only [paintCoord_of_onPanel hp]
    exact paint_paint h (by omega) (by omega) on on'

theorem toInt_ofNat_of_lt {n : Nat} (h : n < 72) : (BitVec.ofNat 16 n).toInt = n := by
  rw [BitVec.toInt_ofNat', Int.bmod_eq_of_le] <;> omega

/-- SET_PIXEL at a pixel of the panel, by its natural coordinates. -/
theorem exec_setPixel_ofNat {x y : Nat} (hx : x < 72) (hy : y < 40) (on : Bool) (s : State) :
    exec (.setPixel (BitVec.ofNat 16 x) (BitVec.ofNat 16 y) on) s =
      .next (respond .ok { s with fb := paint s.fb x y on }) := by
  have hxi := toInt_ofNat_of_lt hx
  have hyi := toInt_ofNat_of_lt (n := y) (by omega)
  have hp : onPanel (BitVec.ofNat 16 x).toInt (BitVec.ofNat 16 y).toInt = true := by
    rw [hxi, hyi, onPanel_iff]
    omega
  rw [exec_setPixel_eq, paintCoord_of_onPanel hp, hxi, hyi, Int.toNat_natCast, Int.toNat_natCast]

/-- Settles O33: the store, with the pixel's index and mask written out. -/
theorem setPixelWritesItsByte : Obligations.SetPixelWritesItsByte := by
  intro x y on s hx0 hx hy0 hy
  rw [exec_setPixel_eq, paintCoord_of_onPanel (onPanel_iff.2 ⟨hx0, hx, hy0, hy⟩)]
  rfl

/-- Settles O35: the read-back law of the store. -/
theorem setPixelReadsBack : Obligations.SetPixelReadsBack := by
  intro x y on s hx hy hwf
  refine ⟨_, exec_setPixel_ofNat hx hy on s, ?_, fun x' y' hx' _ hne => ?_⟩
  · rw [respond_fb, lit_paint hwf hx hx, if_pos ⟨rfl, rfl⟩]
  · rw [respond_fb, lit_paint hwf hx hx', if_neg]
    rintro ⟨rfl, rfl⟩
    exact hne rfl

/-- Settles O36: SET_PIXEL writes the framebuffer alone, and there the pixel's byte. -/
theorem setPixelChangesOneByteOnly : Obligations.SetPixelChangesOneByteOnly := by
  intro x y on s t ht
  obtain rfl := Host.Outcome.next.inj ((exec_setPixel_eq x y on s).symm.trans ht)
  refine ⟨rfl, rfl, rfl, rfl, rfl, fun a ha => ?_⟩
  rw [respond_fb]
  cases hp : onPanel x.toInt y.toInt with
  | false => rw [paintCoord_of_offPanel hp]
  | true =>
    rw [paintCoord_of_onPanel hp]
    exact read_write_ne _ _ (ha hp)

theorem execAll_setPixel_pair (x y x' y' : Coord) (on on' : Bool) (s : State) :
    execAll [.setPixel x y on, .setPixel x' y' on'] s =
      .next (respond .ok (respond .ok { s with fb := paintCoord (paintCoord s.fb x y on) x' y' on' })) := by
  simp only [execAll, exec_setPixel_eq, andThen]
  rfl

/-- Settles O37: the stores commute, and the later of two to one pixel decides. -/
theorem setPixelsCommute : Obligations.SetPixelsCommute := by
  intro x y x' y' on on' s hwf
  refine ⟨fun hne => ⟨_, execAll_setPixel_pair x y x' y' on on' s, ?_⟩, _, _, execAll_setPixel_pair x y x y on on' s,
    exec_setPixel_eq x y on' s, ?_⟩
  · rw [execAll_setPixel_pair, paintCoord_comm hwf hne]
  · exact paintCoord_paintCoord hwf x y on on'

/-! ## CLEAR -/

theorem exec_clear_eq (s : State) : exec .clear s = .next (respond .ok { s with fb := [] }) := rfl

theorem lit_nil (x y : Nat) : lit [] x y = false := BitVec.getLsbD_zero

/-- Settles O38: every byte of the empty memory is zero. -/
theorem clearTurnsEveryPixelOff : Obligations.ClearTurnsEveryPixelOff := fun s =>
  ⟨_, exec_clear_eq s, fun _ _ => rfl, fun x y _ _ => lit_nil x y, rfl⟩

/-- A canonical memory lists nothing beyond its index space. -/
theorem read_of_ge {lo i : Nat} {m : Memory} (h : Memory.wfFrom lo m = true) (hi : fbBytes ≤ i) : m.read i = 0x00 := by
  induction m generalizing lo with
  | nil => rfl
  | cons c m ih =>
    obtain ⟨j, v⟩ := c
    obtain ⟨-, hj, -, hm⟩ := wfFrom_cons.1 h
    rw [Memory.read, if_neg (by omega)]
    exact ih hm

/-- Writing one byte to n indices in turn. -/
theorem read_writeAll_replicate {m : Memory} (h : m.wf = true) (v : Byte) {i n : Nat} (hn : i + n ≤ fbBytes) (j : Nat) :
    (m.writeAll i (List.replicate n v)).read j = if i ≤ j ∧ j < i + n then v else m.read j := by
  induction n generalizing m i with
  | zero => rw [if_neg (by omega)]; rfl
  | succ n ih =>
    rw [List.replicate_succ, Memory.writeAll, ih (wf_write v h (by omega)) (by omega), read_write h]
    by_cases hj : j = i
    · rw [if_neg (by omega), if_pos hj, if_pos (by omega)]
    · rw [if_neg hj]
      exact if_congr (by omega) rfl rfl

/-- Settles O39: after the loop every byte reads zero, so the canonical memory is the empty one. -/
theorem clearIsTheLoopOfZeroWrites : Obligations.ClearIsTheLoopOfZeroWrites := by
  intro s hwf
  have hloop : (s.fb.writeAll 0 (List.replicate 360 (0x00 : Byte))).wf = true :=
    wf_writeAll _ hwf (by rw [List.length_replicate]; decide)
  refine ⟨_, exec_clear_eq s, wf_ext wf_cleared hloop fun i => ?_, wf_cleared⟩
  rw [read_writeAll_replicate hwf _ (by decide)]
  split
  next => rfl
  next hi =>
    have hbytes : fbBytes = 360 := rfl
    exact (read_of_ge hwf (by omega)).symm

end Sys2Proof.Machine

/-! PROOFS. What holds of every operation, from one description of its completion: what it may write, what it may log, and
what it answers. The invariant of every step, and the silence of a failed INIT, follow. -/

namespace Sys2Proof.Machine

/-! ## What a completion may be -/

/-- SET_PIXEL and CLEAR, the two writers of FB (10_state.md section 2). -/
def Draws (i : Instr) : Prop := i = .clear ∨ ∃ x y on, i = .setPixel x y on

/-- What every operation's completion satisfies. -/
structure Completion.Lawful (e : Completion) (i : Instr) (s : State) : Prop where
  fb : ¬Draws i → e.fb = s.fb
  canonical : s.fb.wf = true → e.fb.wf = true
  initState : s.initState.Coherent → e.initState.Coherent
  latched : s.initState.state = .failed → e.initState = s.initState
  wellFramed : ∀ x ∈ e.entries, x.WellFramed
  silent : Draws i → e.entries = []
  producible : s.initState.Coherent → e.response.Producible
  bitmap : e.response.present ≠ none ↔ i = .scan

/-! ## Frames and statuses -/

/-- A write frame with a payload (30_encoding.md R70). -/
def IsWriteFrame (f : Frame) : Prop := ∃ addr ctrl payload, payload ≠ [] ∧ f = writeFrame addr ctrl payload

theorem wellFramed_ackedEntries {fs : List Frame} (h : ∀ f ∈ fs, IsWriteFrame f) :
    ∀ x ∈ ackedEntries fs, x.WellFramed := by
  intro x hx
  obtain ⟨f, hf, rfl⟩ := List.mem_map.1 hx
  exact h f hf

theorem wellFramed_failedEntries {fs : List Frame} (h : ∀ f ∈ fs, IsWriteFrame f) {n : Nat} (hn : n < fs.length)
    (o : BusOutcome) : ∀ x ∈ failedEntries fs n hn o, x.WellFramed := by
  intro x hx
  rcases List.mem_append.1 hx with hx | hx
  · exact wellFramed_ackedEntries (fun f hf => h f (List.mem_of_mem_take hf)) x hx
  · rw [List.mem_singleton.1 hx]
    exact h _ (List.getElem_mem hn)

theorem isWriteFrame_initFrames (s : State) : ∀ f ∈ initFrames s.params, IsWriteFrame f := by
  intro f hf
  rw [← stepFrames_initPlan] at hf
  obtain ⟨st, hst, rfl⟩ := List.mem_map.1 hf
  exact ⟨_, _, _, initPlan_ne s st hst, rfl⟩

theorem isWriteFrame_addressingFrames (p : Params) (n : Nat) : ∀ f ∈ addressingFrames p n, IsWriteFrame f := by
  intro f hf
  unfold addressingFrames at hf
  split at hf
  next =>
    rw [List.mem_singleton.1 hf]
    exact ⟨_, _, _, List.cons_ne_nil _ _, rfl⟩
  next =>
    simp only [List.mem_cons, List.not_mem_nil, or_false] at hf
    rcases hf with rfl | rfl | rfl <;> exact ⟨_, _, _, List.cons_ne_nil _ _, rfl⟩

theorem isWriteFrame_flushFrames (p : Params) (m : Memory) : ∀ f ∈ flushFrames p m, IsWriteFrame f := by
  intro f hf
  obtain ⟨n, -, hf⟩ := List.mem_flatMap.1 hf
  rcases List.mem_append.1 hf with hf | hf
  · exact isWriteFrame_addressingFrames p n f hf
  · rw [List.mem_singleton.1 hf]
    exact ⟨_, _, _, pageBytes_ne m n, rfl⟩

/-- A response without a bitmap is producible unless it is an InitError with a field missing. -/
theorem producible_of_status {st : Status} (h : ∀ k c, st = .initError k c → k ≠ 0 ∧ c ≠ none) :
    Response.Producible ⟨st, none⟩ := ⟨h, fun hnone => absurd rfl hnone⟩

theorem producible_ok : Response.Producible ⟨.ok, none⟩ := producible_of_status nofun

theorem producible_outcomeStatus (o : BusOutcome) : Response.Producible ⟨outcomeStatus o, none⟩ := by
  cases o <;> exact producible_of_status nofun

theorem producible_busError (c : Cause) : Response.Producible ⟨.busError c, none⟩ := producible_of_status nofun

theorem producible_initError {k : StepNo} (c : Cause) (hk : k ≠ 0) : Response.Producible ⟨.initError k (some c), none⟩ :=
  producible_of_status fun _ _ h => by cases h; exact ⟨hk, nofun⟩

/-- The latch's answer carries the register's fields, which a coherent FAILED has. -/
theorem producible_of_latchCheck {s : State} {st : Status} (hl : latchCheck s = some st) (hs : s.initState.Coherent) :
    Response.Producible ⟨st, none⟩ := by
  unfold latchCheck at hl
  split at hl
  next hfailed =>
    obtain rfl := Option.some.inj hl
    simp only [InitState.Coherent, hfailed] at hs
    exact producible_of_status fun _ _ h => by cases h; exact ⟨hs.2, hs.1⟩
  next => cases hl

/-! ## Each operation -/

/-- An operation that only logs well-formed frames and answers. -/
theorem lawful_of_entries {i : Instr} (s : State) {entries : List LogEntry} {st : Status} (hdraws : ¬Draws i)
    (hscan : i ≠ .scan) (hentries : ∀ x ∈ entries, x.WellFramed)
    (hst : s.initState.Coherent → Response.Producible ⟨st, none⟩) :
    (Completion.mk s.fb s.initState entries ⟨st, none⟩).Lawful i s where
  fb _ := rfl
  canonical := id
  initState := id
  latched _ := rfl
  wellFramed := hentries
  silent h := absurd h hdraws
  producible := hst
  bitmap := iff_of_false (fun h => h rfl) hscan

/-- An operation that writes FB and answers OK. -/
theorem lawful_of_draw {i : Instr} (s : State) {m : Memory} (hdraws : Draws i) (hscan : i ≠ .scan)
    (hm : s.fb.wf = true → m.wf = true) : (Completion.mk m s.initState [] ⟨.ok, none⟩).Lawful i s where
  fb h := absurd hdraws h
  canonical := hm
  initState := id
  latched _ := rfl
  wellFramed := nofun
  silent _ := rfl
  producible _ := producible_ok
  bitmap := iff_of_false (fun h => h rfl) hscan

theorem draws_clear : Draws .clear := .inl rfl

theorem draws_setPixel (x y : Coord) (on : Bool) : Draws (.setPixel x y on) := .inr ⟨x, y, on, rfl⟩

theorem latched_lawful {i : Instr} {s : State} {st : Status} (hdraws : ¬Draws i) (hscan : i ≠ .scan)
    (hl : latchCheck s = some st) : (Completion.answer s st).Lawful i s :=
  lawful_of_entries s hdraws hscan nofun (producible_of_latchCheck hl)

/-- A write transaction: nothing for an empty payload, else its one frame. -/
theorem writeTxn_lawful {i : Instr} (hdraws : ¬Draws i) (hscan : i ≠ .scan) (addr : BusAddr) (ctrl : Byte)
    (payload : List Byte) (s : State) :
    ∃ e : Completion, e.Lawful i s ∧ respondTxn (writeTxn addr ctrl payload s) = e.apply s := by
  rw [respondTxn_writeTxn]
  split
  next =>
    exact ⟨_, lawful_of_entries s hdraws hscan (entries := []) nofun fun _ => producible_ok, respond_eq_apply s s .ok⟩
  next hp =>
    refine ⟨_, lawful_of_entries s hdraws hscan
      (entries := [⟨writeFrame addr ctrl payload, .write, s.bus.peek 0⟩]) ?_ fun _ => producible_outcomeStatus _, rfl⟩
    intro x hx
    rw [List.mem_singleton.1 hx]
    exact ⟨addr, ctrl, payload, hp, rfl⟩

theorem probe_lawful (addr : BusAddr) (s : State) :
    ∃ e : Completion, e.Lawful (.probe addr) s ∧ exec (.probe addr) s = .next (e.apply s) := by
  refine ⟨_, lawful_of_entries s (by simp [Draws]) nofun ?_ fun _ => producible_outcomeStatus _,
    probeSubmitsItsAddressOnly addr s⟩
  intro x hx
  rw [List.mem_singleton.1 hx]
  exact ⟨addr, rfl⟩

theorem scan_lawful (s : State) : (scanCompletion s).Lawful .scan s where
  fb _ := rfl
  canonical := id
  initState := id
  latched _ := rfl
  wellFramed x hx := by
    obtain ⟨j, hj, rfl⟩ := List.mem_mapIdx.1 hx
    exact ⟨_, rfl⟩
  silent h := by simp [Draws] at h
  producible _ := ⟨nofun, fun _ => rfl⟩
  bitmap := iff_of_true nofun rfl

/-- A send to the panel: the latch's answer, or its transaction. -/
theorem send_lawful {bytes : List Byte} {i : Instr} (hi : i = .sendCmd bytes ∨ i = .sendData bytes) (s : State) :
    ∃ e : Completion, e.Lawful i s ∧ exec i s = .next (e.apply s) := by
  have hdraws : ¬Draws i := by rcases hi with rfl | rfl <;> simp [Draws]
  have hscan : i ≠ .scan := by rcases hi with rfl | rfl <;> nofun
  cases hl : latchCheck s with
  | some st =>
    exact ⟨_, latched_lawful hdraws hscan hl, (exec_send_of_latched hi hl).trans (congrArg _ (respond_eq_apply s s st))⟩
  | none =>
    obtain ⟨ctrl, hctrl⟩ := exec_send_of_clear hi
    obtain ⟨e, hlaw, he⟩ := writeTxn_lawful hdraws hscan s.params.panelAddr ctrl bytes s
    exact ⟨e, hlaw, (hctrl s hl).trans (congrArg _ he)⟩

theorem coherent_ready : InitState.Coherent ⟨.ready, none, 0⟩ := ⟨rfl, rfl⟩

theorem coherent_failed (c : Cause) {k : StepNo} (hk : k ≠ 0) : InitState.Coherent ⟨.failed, some c, k⟩ := ⟨nofun, hk⟩

/-- INIT writes the register, and only with the latch clear. -/
theorem initCompletion_lawful {s : State} {r : InitState} {entries : List LogEntry} {st : Status}
    (hclear : s.initState.state ≠ .failed) (hr : r.Coherent) (hentries : ∀ x ∈ entries, x.WellFramed)
    (hst : Response.Producible ⟨st, none⟩) : (initCompletion s r entries st).Lawful .init s where
  fb _ := rfl
  canonical := id
  initState _ := hr
  latched h := absurd h hclear
  wellFramed := hentries
  silent h := by simp [Draws] at h
  producible _ := hst
  bitmap := iff_of_false (fun h => h rfl) nofun

theorem init_lawful (s : State) : ∃ e : Completion, e.Lawful .init s ∧ exec .init s = .next (e.apply s) := by
  by_cases hclear : s.initState.state = .failed
  · exact ⟨_, latched_lawful (by simp [Draws]) nofun (if_pos hclear),
      (exec_of_latched (by simp) (if_pos hclear)).trans (congrArg _ (respond_eq_apply s s _))⟩
  · rcases allAcked_or_firstFailure s.bus (initFrames s.params).length with hack | ⟨n, c, hn, hfail⟩
    · exact ⟨_, initCompletion_lawful hclear coherent_ready (wellFramed_ackedEntries (isWriteFrame_initFrames s))
        producible_ok, exec_init_of_allAcked hclear hack⟩
    · obtain ⟨k, hk, hexec⟩ := exec_init_of_firstFailure hclear hn hfail
      have hk0 : k ≠ 0 := fun h => by simp [h] at hk
      exact ⟨_, initCompletion_lawful hclear (coherent_failed c hk0)
        (wellFramed_failedEntries (isWriteFrame_initFrames s) hn _) (producible_initError c hk0), hexec⟩

theorem flush_lawful (s : State) : ∃ e : Completion, e.Lawful .flush s ∧ exec .flush s = .next (e.apply s) := by
  have hdraws : ¬Draws .flush := by simp [Draws]
  by_cases hclear : s.initState.state = .failed
  · exact ⟨_, latched_lawful hdraws nofun (if_pos hclear),
      (exec_of_latched (by simp) (if_pos hclear)).trans (congrArg _ (respond_eq_apply s s _))⟩
  · have hframes := isWriteFrame_flushFrames s.params s.fb
    rcases allAcked_or_firstFailure s.bus (flushFrames s.params s.fb).length with hack | ⟨n, c, hn, hfail⟩
    · exact ⟨_, lawful_of_entries s hdraws nofun (wellFramed_ackedEntries hframes) fun _ => producible_ok,
        exec_flush_of_allAcked hclear hack⟩
    · exact ⟨_, lawful_of_entries s hdraws nofun (wellFramed_failedEntries hframes hn _) fun _ => producible_busError c,
        exec_flush_of_firstFailure hclear hn hfail⟩

/-- SET_PIXEL and CLEAR end as they do from no entry of LOG and no outcome drawn. -/
theorem respond_ok_eq_apply (s : State) (m : Memory) :
    respond .ok { s with fb := m } = (Completion.mk m s.initState [] ⟨.ok, none⟩).apply s := by
  simp [respond, respondWith, Completion.apply]

/-- Each operation ends in a lawful completion. -/
theorem operation_lawful {i : Instr} (hi : i.isOperation = true) (s : State) :
    ∃ e : Completion, e.Lawful i s ∧ exec i s = .next (e.apply s) := by
  cases i with
  | write addr ctrl payload =>
    obtain ⟨e, hlaw, he⟩ := writeTxn_lawful (i := .write addr ctrl payload) (by simp [Draws]) nofun addr ctrl payload s
    exact ⟨e, hlaw, congrArg Host.Outcome.next he⟩
  | probe addr => exact probe_lawful addr s
  | scan => exact ⟨_, scan_lawful s, scan_completes s s⟩
  | sendCmd bytes => exact send_lawful (.inl rfl) s
  | sendData bytes => exact send_lawful (.inr rfl) s
  | init => exact init_lawful s
  | setPixel x y on =>
    exact ⟨_, lawful_of_draw s (draws_setPixel x y on) nofun fun h => wf_paintCoord h x y on,
      (exec_setPixel_eq x y on s).trans (congrArg _ (respond_ok_eq_apply s _))⟩
  | clear =>
    exact ⟨_, lawful_of_draw s draws_clear nofun fun _ => wf_cleared, congrArg _ (respond_ok_eq_apply s [])⟩
  | flush => exact flush_lawful s
  | _ => cases hi

/-- Everything an instruction can do: a wire byte joins the frame in flight, an operation ends in a lawful completion. -/
theorem exec_cases (i : Instr) (s : State) :
    (i.isOperation = false ∧ ∃ v, exec i s = .next (composeByte v s)) ∨
      (i.isOperation = true ∧ ∃ e : Completion, e.Lawful i s ∧ exec i s = .next (e.apply s)) := by
  cases hi : i.isOperation with
  | false =>
    obtain ⟨v, hv⟩ := exec_wireByte hi
    exact .inl ⟨rfl, v, hv s⟩
  | true => exact .inr ⟨rfl, operation_lawful hi s⟩

/-! ## The obligations about every instruction -/

/-- Settles O45: both ways of `exec_cases` are a next state. -/
theorem noInstructionStops : Obligations.NoInstructionStops := by
  intro i s
  rcases exec_cases i s with ⟨-, v, hv⟩ | ⟨-, e, -, he⟩
  · exact ⟨_, hv⟩
  · exact ⟨_, he⟩

/-- Settles O46: what a step does besides running an instruction is a next state. -/
theorem noStepStops : Obligations.NoStepStops := by
  intro s
  rcases step_cases s with ⟨-, hs⟩ | ⟨_, -, hs⟩ | ⟨_, _, -, hs⟩ | ⟨_, _, i, -, -, -, hs⟩
  · exact ⟨_, hs⟩
  · exact ⟨_, hs⟩
  · exact ⟨_, hs⟩
  · rw [hs]
    exact noInstructionStops i _

/-- Settles O47: a lawful completion of any other operation leaves FB. -/
theorem onlySetPixelAndClearWriteFB : Obligations.OnlySetPixelAndClearWriteFB := by
  intro i s t hclear hset ht a
  rcases exec_cases i s with ⟨-, v, hv⟩ | ⟨-, e, hlaw, he⟩
  · obtain rfl := Host.Outcome.next.inj (hv.symm.trans ht)
    rfl
  · obtain rfl := Host.Outcome.next.inj (he.symm.trans ht)
    have hfb : e.fb = s.fb := hlaw.fb (by rintro (h | ⟨x, y, on, h⟩); exacts [hclear h, hset x y on h])
    exact congrArg (·.read a) hfb

/-- Settles O48: a wire byte changes the frame in flight alone, and a completion appends its entries and one response. -/
theorem everyOperationAnswersOnce : Obligations.EveryOperationAnswersOnce := by
  intro i s t ht
  rcases exec_cases i s with ⟨hop, v, hv⟩ | ⟨hop, e, hlaw, he⟩
  · obtain rfl := Host.Outcome.next.inj (hv.symm.trans ht)
    exact ⟨rfl, rfl, ⟨[], (List.append_nil _).symm, fun _ => ⟨rfl, rfl⟩⟩, by simp [hop], fun _ => rfl⟩
  · obtain rfl := Host.Outcome.next.inj (he.symm.trans ht)
    refine ⟨rfl, rfl, ⟨e.entries, rfl, fun h => ?_⟩, fun _ => ⟨rfl, e.response, rfl, hlaw.bitmap⟩, by simp [hop]⟩
    have hdraws : Draws i := by
      rcases h with h | h | h
      · exact .inl h
      · exact .inr h
      · simp [hop] at h
    have hnil := hlaw.silent hdraws
    exact ⟨hnil, by rw [Completion.apply, hnil]; exact advance_zero s.bus⟩

/-- Settles O49: a completion is the same under every past. -/
theorem logIsNeverRead : Obligations.LogIsNeverRead := by
  intro i s t l r ht
  cases hi : i.isOperation with
  | false =>
    obtain ⟨v, hv⟩ := exec_wireByte hi
    obtain rfl := Host.Outcome.next.inj ((hv s).symm.trans ht)
    refine ⟨[], [], (List.append_nil _).symm, (List.append_nil _).symm, ?_⟩
    rw [hv, List.append_nil, List.append_nil]
    rfl
  | true =>
    obtain ⟨e, -, he⟩ := operation_completes hi s
    obtain rfl := Host.Outcome.next.inj ((he s).symm.trans ht)
    exact ⟨e.entries, [e.response], rfl, rfl, he { s with log := l, responses := r }⟩

/-! ## The invariant -/

theorem producible_illegalRequest : Response.Producible ⟨.illegalRequest, none⟩ := producible_of_status nofun

/-- A lawful completion keeps the invariant. -/
theorem inv_apply {i : Instr} {s : State} {e : Completion} (hs : s.Inv) (he : e.Lawful i s) : (e.apply s).Inv where
  memory := he.canonical hs.memory
  initState := he.initState hs.initState
  idle := rfl
  log := List.forall_mem_append.2 ⟨hs.log, he.wellFramed⟩
  responses := List.forall_mem_append.2 ⟨hs.responses, List.forall_mem_singleton.2 (he.producible hs.initState)⟩

/-- Taking an input off the port keeps the invariant. -/
theorem inv_withInputs {s : State} (hs : s.Inv) (rest : List HostInput) : State.Inv { s with inputs := rest } where
  memory := hs.memory
  initState := hs.initState
  idle := hs.idle
  log := hs.log
  responses := hs.responses

theorem inv_respond {s : State} {st : Status} (hs : s.Inv) (hst : Response.Producible ⟨st, none⟩) :
    (respond st s).Inv where
  memory := hs.memory
  initState := hs.initState
  idle := rfl
  log := hs.log
  responses := List.forall_mem_append.2 ⟨hs.responses, List.forall_mem_singleton.2 hst⟩

theorem inv_resetBlock {s : State} (hs : s.Inv) : (resetBlock s).Inv where
  memory := rfl
  initState := initState_reset_coherent
  idle := rfl
  log := nofun
  responses := hs.responses

/-- Settles O50: each kind of step keeps the invariant. -/
theorem stepKeepsTheInvariant : Obligations.StepKeepsTheInvariant := by
  intro s t hinv ht
  rcases step_cases s with ⟨-, hs⟩ | ⟨rest, -, hs⟩ | ⟨_, rest, -, hs⟩ | ⟨_, rest, i, -, -, hop, hs⟩
  · obtain rfl := Host.Outcome.next.inj (hs.symm.trans ht)
    exact hinv
  · obtain rfl := Host.Outcome.next.inj (hs.symm.trans ht)
    exact inv_resetBlock (inv_withInputs hinv rest)
  · obtain rfl := Host.Outcome.next.inj (hs.symm.trans ht)
    exact inv_respond (inv_withInputs hinv rest) producible_illegalRequest
  · obtain ⟨e, hlaw, he⟩ := operation_lawful hop { s with inputs := rest }
    obtain rfl := Host.Outcome.next.inj (he.symm.trans (hs.symm.trans ht))
    exact inv_apply (inv_withInputs hinv rest) hlaw

/-! ## A failed INIT silences the panel -/

/-- With the latch set, an operation but WRITE, PROBE and SCAN submits nothing and leaves the register. -/
theorem exec_silent {i : Instr} (hop : i.isOperation = true) (hscan : i ≠ .scan) (hprobe : ∀ a, i ≠ .probe a)
    (hwrite : ∀ a c p, i ≠ .write a c p) {s : State} (hs : s.initState.state = .failed) :
    ∃ t, exec i s = .next t ∧ t.log = s.log ∧ t.bus = s.bus ∧ t.initState = s.initState ∧ t.inputs = s.inputs ∧
      t.cfg = s.cfg := by
  by_cases hdraws : Draws i
  · obtain ⟨e, hlaw, he⟩ := operation_lawful hop s
    refine ⟨_, he, ?_, ?_, hlaw.latched hs, rfl, rfl⟩ <;> simp [Completion.apply, hlaw.silent hdraws]
  · have hpanel : (∃ bytes, i = .sendCmd bytes) ∨ (∃ bytes, i = .sendData bytes) ∨ i = .init ∨ i = .flush := by
      cases i with
      | write a c p => exact absurd rfl (hwrite a c p)
      | probe a => exact absurd rfl (hprobe a)
      | scan => exact absurd rfl hscan
      | setPixel x y on => exact absurd (draws_setPixel x y on) hdraws
      | clear => exact absurd draws_clear hdraws
      | sendCmd bytes => exact .inl ⟨bytes, rfl⟩
      | sendData bytes => exact .inr (.inl ⟨bytes, rfl⟩)
      | init => exact .inr (.inr (.inl rfl))
      | flush => exact .inr (.inr (.inr rfl))
      | _ => cases hop
    exact ⟨_, exec_of_latched hpanel (if_pos hs), rfl, rfl, rfl, rfl, rfl⟩

/-- A request that does not decode to WRITE, PROBE or SCAN. -/
def SilentRequest (maxPayload : Nat) (x : HostInput) : Prop :=
  ∃ bytes, x = .request bytes ∧ ∀ i, decode maxPayload bytes = .ok i →
    i ≠ .scan ∧ (∀ a, i ≠ .probe a) ∧ ∀ a c p, i ≠ .write a c p

/-- The step on such a request, behind the latch. -/
theorem step_silent {s : State} {x : HostInput} {rest : List HostInput} (hs : s.initState.state = .failed)
    (hin : s.inputs = x :: rest) (hx : SilentRequest s.params.maxPayload x) :
    ∃ t, step s = .next t ∧ t.log = s.log ∧ t.bus = s.bus ∧ t.initState = s.initState ∧ t.inputs = rest ∧
      t.cfg = s.cfg := by
  obtain ⟨bytes, rfl, hdec⟩ := hx
  cases hd : decode s.params.maxPayload bytes with
  | error e => exact ⟨_, step_of_error hin hd, rfl, rfl, rfl, rfl, rfl⟩
  | ok i =>
    obtain ⟨hscan, hprobe, hwrite⟩ := hdec i hd
    obtain ⟨hop, -, -⟩ := decodedRequestIsItsOwnEncoding _ _ _ hd
    obtain ⟨t, ht, hkept⟩ := exec_silent hop hscan hprobe hwrite (s := { s with inputs := rest }) hs
    exact ⟨t, (step_of_ok hin hd).trans ht, hkept⟩

/-- A run goes on from the next state of its first step. -/
theorem run_succ_of_step {s u : State} (k : Nat) (h : step s = .next u) : core.run (k + 1) s = core.run k u := by
  have hstep : core.step s = .next u := h
  simp only [Host.Core.run, hstep]

/-- Settles O31, by induction on the outstanding requests. -/
theorem failedInitKeepsThePanelSilent : Obligations.FailedInitKeepsThePanelSilent := by
  intro s hs hall
  unfold runInputs
  generalize hin : s.inputs = inputs at hall
  induction inputs generalizing s with
  | nil => exact ⟨s, rfl, rfl, rfl, rfl, hin⟩
  | cons x rest ih =>
    obtain ⟨u, hu, hlog, hbus, hinit, hinputs, hcfg⟩ := step_silent hs hin (hall x List.mem_cons_self)
    have hparams : u.params = s.params := congrArg Subtype.val hcfg
    obtain ⟨t, ht, hlog', hbus', hinit', hdone⟩ := ih u (hinit ▸ hs) hinputs
      (fun y hy => hparams ▸ hall y (List.mem_cons_of_mem x hy))
    exact ⟨t, (run_succ_of_step rest.length hu).trans ht, hlog'.trans hlog, hbus'.trans hbus, hinit'.trans hinit, hdone⟩

end Sys2Proof.Machine

/-! PROOFS. The clients outside the block (43_glyph_renderer.md, 45_serial_line.md): what a list of SET_PIXEL requests
paints, which requests a glyph and a string issue, and what the line buffer keeps. -/

namespace Sys2Proof.Machine

/-! ## What a list of requests paints -/

/-- The request for a pixel by its natural coordinates. -/
def setPixelAt (x y : Nat) (on : Bool) : Instr := .setPixel (BitVec.ofNat 16 x) (BitVec.ofNat 16 y) on

theorem setPixelAt_inj {x y x' y' : Nat} {on on' : Bool} (hx : x < 65536) (hy : y < 65536) (hx' : x' < 65536)
    (hy' : y' < 65536) (h : setPixelAt x y on = setPixelAt x' y' on') : x = x' ∧ y = y' ∧ on = on' := by
  obtain ⟨hxx, hyy, hon⟩ := Instr.setPixel.inj h
  have hmod := congrArg BitVec.toNat hxx
  have hmod' := congrArg BitVec.toNat hyy
  rw [BitVec.toNat_ofNat, BitVec.toNat_ofNat, Nat.mod_eq_of_lt hx, Nat.mod_eq_of_lt hx'] at hmod
  rw [BitVec.toNat_ofNat, BitVec.toNat_ofNat, Nat.mod_eq_of_lt hy, Nat.mod_eq_of_lt hy'] at hmod'
  exact ⟨hmod, hmod', hon⟩

/-- A request for a pixel of the panel. -/
def PanelRequest (r : Instr) : Prop := ∃ x y on, x < 72 ∧ y < 40 ∧ r = setPixelAt x y on

/-- Requests for pixels of the panel run to a next state, in which a pixel has a value that each request for it gives, if
one gives it or it had that value before. -/
theorem execAll_setPixels {rs : List Instr} (hrs : ∀ r ∈ rs, PanelRequest r) {s : State} (hwf : s.fb.wf = true) :
    ∃ t, execAll rs s = .next t ∧ t.fb.wf = true ∧
      ∀ x y v, x < 72 → y < 40 → (∀ on, setPixelAt x y on ∈ rs → on = v) →
        (setPixelAt x y v ∈ rs ∨ lit s.fb x y = v) → lit t.fb x y = v := by
  induction rs generalizing s with
  | nil => exact ⟨s, rfl, hwf, fun x y v _ _ _ h => by simpa using h⟩
  | cons r rs ih =>
    obtain ⟨px, py, pon, hpx, hpy, rfl⟩ := hrs r List.mem_cons_self
    obtain ⟨t, ht, htwf, hlit⟩ := ih (fun r hr => hrs r (List.mem_cons_of_mem _ hr))
      (s := respond .ok { s with fb := paint s.fb px py pon }) (wf_paint pon hwf hpx hpy)
    refine ⟨t, ?_, htwf, fun x y v hx hy hall hv => ?_⟩
    · rw [execAll, setPixelAt, exec_setPixel_ofNat hpx hpy]
      exact ht
    · refine hlit x y v hx hy (fun on hon => hall on (List.mem_cons_of_mem _ hon)) ?_
      rw [respond_fb, lit_paint hwf hpx hx]
      by_cases hxy : x = px ∧ y = py
      · obtain ⟨rfl, rfl⟩ := hxy
        rw [if_pos ⟨rfl, rfl⟩]
        exact .inr (hall pon List.mem_cons_self)
      · rw [if_neg hxy]
        refine hv.imp_left fun hmem => (List.mem_cons.1 hmem).resolve_left fun heq => hxy ?_
        obtain ⟨hx', hy', -⟩ := setPixelAt_inj (by omega) (by omega) (by omega) (by omega) heq
        exact ⟨hx', hy'⟩

/-! ## drawGlyph -/

theorem pixelRequest_natCast {x y : Nat} (hx : x < 72) (hy : y < 40) (on : Bool) :
    pixelRequest x y on = [setPixelAt x y on] := by
  have hport : portCarries x = true ∧ portCarries y = true := by
    simp only [portCarries, Bool.and_eq_true, decide_eq_true_eq]
    omega
  simp [pixelRequest, setPixelAt, hport]

/-- The requests of a glyph inside the panel: its 64 pixels, each with its glyph bit. -/
theorem mem_drawGlyph {font : Font} {order : GlyphBitOrder} {x y : Nat} {c : Byte} {i : Instr} (hx : x ≤ 64)
    (hy : y ≤ 32) : i ∈ drawGlyph font order x y c ↔
      ∃ r col, r < 8 ∧ col < 8 ∧ i = setPixelAt (x + col) (y + r) (glyphBit font order c r col) := by
  have hreq : ∀ r col, r < 8 → col < 8 → ∀ on, pixelRequest ((x : Int) + (col : Nat)) ((y : Int) + (r : Nat)) on =
      [setPixelAt (x + col) (y + r) on] := fun r col hr hcol on => by
    exact_mod_cast pixelRequest_natCast (x := x + col) (y := y + r) (by omega) (by omega) on
  simp only [drawGlyph, drawGlyphRow, List.mem_flatMap, List.mem_range]
  constructor
  · rintro ⟨r, hr, col, hcol, hi⟩
    rw [hreq r col hr hcol, List.mem_singleton] at hi
    exact ⟨r, col, hr, hcol, hi⟩
  · rintro ⟨r, col, hr, hcol, hi⟩
    refine ⟨r, hr, col, hcol, ?_⟩
    rwa [hreq r col hr hcol, List.mem_singleton]

theorem panelRequest_of_mem_drawGlyph {font : Font} {order : GlyphBitOrder} {x y : Nat} {c : Byte} {i : Instr} (hx : x ≤ 64)
    (hy : y ≤ 32) (hi : i ∈ drawGlyph font order x y c) : PanelRequest i := by
  obtain ⟨r, col, hr, hcol, rfl⟩ := (mem_drawGlyph hx hy).1 hi
  exact ⟨_, _, _, by omega, by omega, rfl⟩

theorem length_flatMap_of_forall {α β : Type} {l : List α} {f : α → List β} {k : Nat} (h : ∀ a ∈ l, (f a).length = k) :
    (l.flatMap f).length = l.length * k := by
  rw [List.length_flatMap, List.map_congr_left h, List.map_const', List.sum_replicate, smul_eq_mul]

theorem pixelRequest_length {x y : Int} (hx : -32768 ≤ x ∧ x ≤ 32767) (hy : -32768 ≤ y ∧ y ≤ 32767) (on : Bool) :
    (pixelRequest x y on).length = 1 := by
  simp [pixelRequest, portCarries, hx, hy]

/-- A glyph whose cell the port can carry is 64 requests. -/
theorem drawGlyph_length (font : Font) (order : GlyphBitOrder) {x y : Int} (c : Byte)
    (hx : -32768 ≤ x ∧ x ≤ 32760) (hy : -32768 ≤ y ∧ y ≤ 32760) : (drawGlyph font order x y c).length = 64 := by
  refine length_flatMap_of_forall (k := 8) fun r hr => length_flatMap_of_forall (k := 1) fun col hcol => ?_
  rw [List.mem_range] at hr hcol
  exact pixelRequest_length (by omega) (by omega) _

/-- Settles O51: each pixel of the cell has one request, with its glyph bit, and no other pixel has any. -/
theorem drawGlyphPaintsItsCell : Obligations.DrawGlyphPaintsItsCell := by
  intro font order x y c s hx hy hwf
  obtain ⟨t, ht, -, hlit⟩ := execAll_setPixels (fun i hi => panelRequest_of_mem_drawGlyph (font := font) (order := order)
    (c := c) hx hy hi) hwf
  refine ⟨drawGlyph_length font order c (by omega) (by omega), t, ht, fun r col hr hcol => ?_,
    fun x' y' hx' hy' hout => ?_⟩
  · refine hlit _ _ _ (by omega) (by omega) (fun on hon => ?_) (.inl ((mem_drawGlyph hx hy).2 ⟨r, col, hr, hcol, rfl⟩))
    obtain ⟨r', col', hr', hcol', heq⟩ := (mem_drawGlyph hx hy).1 hon
    obtain ⟨hxx, hyy, rfl⟩ := setPixelAt_inj (by omega) (by omega) (by omega) (by omega) heq
    obtain rfl : col = col' := by omega
    obtain rfl : r = r' := by omega
    rfl
  · refine hlit x' y' _ hx' hy' (fun on hon => ?_) (.inr rfl)
    obtain ⟨r', col', hr', hcol', heq⟩ := (mem_drawGlyph hx hy).1 hon
    obtain ⟨hxx, hyy, -⟩ := setPixelAt_inj (by omega) (by omega) (by omega) (by omega) heq
    exact absurd ⟨by omega, by omega, by omega, by omega⟩ hout

/-! ## drawString -/

theorem drawString_of_gt (font : Font) (order : GlyphBitOrder) {x : Int} (y : Int) (text : List Byte) (hx : 64 < x) :
    drawString font order x y text = [] := by
  cases text with
  | nil => rfl
  | cons c rest => exact if_pos hx

theorem drawString_cons_of_le (font : Font) (order : GlyphBitOrder) {x : Int} (y : Int) (c : Byte) (rest : List Byte)
    (hx : x ≤ 64) : drawString font order x y (c :: rest) =
      drawGlyph font order x y c ++ drawString font order (x + 8) y rest := if_neg (not_lt.2 hx)

/-- From the k-th glyph cell on, at most 9 - k glyphs are drawn. -/
theorem drawString_length (font : Font) (order : GlyphBitOrder) {y : Int} (hy : -32768 ≤ y ∧ y ≤ 32760)
    (text : List Byte) (k : Nat) : (drawString font order (8 * k) y text).length = 64 * min text.length (9 - k) := by
  induction text generalizing k with
  | nil => simp [drawString]
  | cons c rest ih =>
    by_cases hk : k ≤ 8
    · have hcursor : (8 * k + 8 : Int) = 8 * (k + 1 : Nat) := by omega
      rw [drawString_cons_of_le font order y c rest (by omega), List.length_append,
        drawGlyph_length font order c (by omega) hy, hcursor, ih, List.length_cons]
      omega
    · rw [drawString_of_gt font order y _ (by omega), List.length_nil, Nat.sub_eq_zero_of_le (by omega)]
      simp

/-- Settles O52: the first cell is number 0. -/
theorem drawStringStopsAtThePanelEdge : Obligations.DrawStringStopsAtThePanelEdge := by
  intro font order y text hlo hhi
  exact ⟨drawString_length font order ⟨hlo, hhi⟩ text 0, fun x => rfl,
    fun x hx => drawString_of_gt font order y text hx⟩

/-! ## drawStringCentered -/

/-- A string's requests are for pixels of its cells on the panel. -/
theorem mem_drawString {font : Font} {order : GlyphBitOrder} {x y : Nat} {text : List Byte} {i : Instr} (hy : y ≤ 32)
    (hi : i ∈ drawString font order x y text) :
    ∃ px py on, i = setPixelAt px py on ∧ x ≤ px ∧ px < x + 8 * text.length ∧ px < 72 ∧ y ≤ py ∧ py < y + 8 := by
  induction text generalizing x with
  | nil => cases hi
  | cons c rest ih =>
    by_cases hx : x ≤ 64
    · rw [drawString_cons_of_le font order y c rest (by omega), List.mem_append] at hi
      rcases hi with hi | hi
      · obtain ⟨r, col, hr, hcol, rfl⟩ := (mem_drawGlyph hx hy).1 hi
        exact ⟨_, _, _, rfl, by simp only [List.length_cons]; omega⟩
      · obtain ⟨px, py, on, rfl, hp⟩ := ih (x := x + 8) (by exact_mod_cast hi)
        exact ⟨_, _, _, rfl, by simp only [List.length_cons]; omega⟩
    · rw [drawString_of_gt font order y _ (by omega)] at hi
      cases hi

/-- Five glyphs are centered in columns 16 to 55. -/
theorem mem_drawStringCentered_five {font : Font} {order : GlyphBitOrder} {y : Nat} {text : List Byte} {i : Instr}
    (hy : y ≤ 32) (htext : text.length = 5) (hi : i ∈ drawStringCentered font order y text) :
    ∃ px py on, i = setPixelAt px py on ∧ 16 ≤ px ∧ px < 56 ∧ y ≤ py ∧ py < y + 8 := by
  have hstart : centeredStart text.length = (16 : Nat) := by rw [htext]; rfl
  rw [drawStringCentered, hstart] at hi
  obtain ⟨px, py, on, rfl, hp⟩ := mem_drawString hy hi
  exact ⟨px, py, on, rfl, by omega⟩

/-- Settles O53: every request is for a pixel of the two cells' rows, and after CLEAR every other pixel is off. -/
theorem centeredStringsLightTheirRowsOnly : Obligations.CenteredStringsLightTheirRowsOnly := by
  intro font order hello world s hhello hworld
  have hmem : ∀ i ∈ drawStringCentered font order 12 hello ++ drawStringCentered font order 24 world,
      ∃ px py on, i = setPixelAt px py on ∧ 16 ≤ px ∧ px < 56 ∧ ((12 ≤ py ∧ py < 20) ∨ (24 ≤ py ∧ py < 32)) := by
    intro i hi
    rcases List.mem_append.1 hi with hi | hi
    · obtain ⟨px, py, on, rfl, hp⟩ := mem_drawStringCentered_five (y := 12) (by omega) hhello hi
      exact ⟨px, py, on, rfl, by omega⟩
    · obtain ⟨px, py, on, rfl, hp⟩ := mem_drawStringCentered_five (y := 24) (by omega) hworld hi
      exact ⟨px, py, on, rfl, by omega⟩
  have hpanel : ∀ i ∈ drawStringCentered font order 12 hello ++ drawStringCentered font order 24 world, PanelRequest i := by
    intro i hi
    obtain ⟨px, py, on, rfl, hp⟩ := hmem i hi
    exact ⟨px, py, on, by omega, by omega, rfl⟩
  obtain ⟨t, ht, -, hlit⟩ := execAll_setPixels hpanel (s := respond .ok { s with fb := [] }) wf_cleared
  refine ⟨t, ht, fun x y hx hy hon => ?_⟩
  by_contra hout
  have hoff : lit t.fb x y = false := by
    refine hlit x y false hx hy (fun on hreq => ?_) (.inr (lit_nil x y))
    obtain ⟨px, py, on', heq, hp⟩ := hmem _ hreq
    obtain ⟨rfl, rfl, -⟩ := setPixelAt_inj (by omega) (by omega) (by omega) (by omega) heq
    exact absurd hp hout
  rw [hoff] at hon
  cases hon

/-! ## The serial line -/

theorem isTerminator_iff {b : Byte} : isTerminator b = true ↔ b = 0x0A ∨ b = 0x0D := by simp [isTerminator]

/-- Any other byte joins the line while it has fewer than ten. -/
theorem onByte_of_not_terminator (emptyLine : EmptyLine) (line : List Byte) {b : Byte} (hb : isTerminator b = false) :
    onByte emptyLine ⟨line.take 10⟩ b = (⟨(line ++ [b]).take 10⟩, []) := by
  by_cases hlen : line.length < 10
  · have htake : line.take 10 = line := List.take_of_length_le (by omega)
    have htake' : (line ++ [b]).take 10 = line ++ [b] := List.take_of_length_le (by simpa using hlen)
    simp [onByte, hb, htake, htake', hlen]
  · have hten : 10 ≤ line.length := not_lt.1 hlen
    have htake : (line ++ [b]).take 10 = line.take 10 := List.take_append_of_le_length hten
    simp [onByte, hb, htake, hten]

theorem onByte_of_terminator (emptyLine : EmptyLine) (line : List Byte) {b : Byte} (hb : isTerminator b = true) :
    onByte emptyLine ⟨line⟩ b = (⟨[]⟩, if line ≠ [] ∨ emptyLine = .emit then lineEvents line else []) := if_pos hb

/-- Bytes without a terminator leave the first ten of the line, and no event. -/
theorem onBytes_of_not_terminator (emptyLine : EmptyLine) (line : List Byte) {bytes : List Byte}
    (h : ∀ b ∈ bytes, isTerminator b = false) :
    onBytes emptyLine ⟨line.take 10⟩ bytes = (⟨(line ++ bytes).take 10⟩, []) := by
  induction bytes generalizing line with
  | nil => rw [List.append_nil]; rfl
  | cons b rest ih =>
    rw [onBytes, onByte_of_not_terminator emptyLine line (h b List.mem_cons_self),
      ih (line ++ [b]) fun c hc => h c (List.mem_cons_of_mem b hc)]
    simp

/-- An input behind another goes on from its buffer, with its events behind. -/
theorem onBytes_append (emptyLine : EmptyLine) (s : SerialLine) (bytes later : List Byte) :
    onBytes emptyLine s (bytes ++ later) =
      ((onBytes emptyLine (onBytes emptyLine s bytes).1 later).1,
        (onBytes emptyLine s bytes).2 ++ (onBytes emptyLine (onBytes emptyLine s bytes).1 later).2) := by
  induction bytes generalizing s with
  | nil => rfl
  | cons b rest ih => simp [onBytes, ih]

/-- Settles O55: the line's bytes fill the buffer, and the terminator renders and echoes it. -/
theorem serialLineKeepsTenBytes : Obligations.SerialLineKeepsTenBytes := by
  intro emptyLine line b hline hb
  have hfill : onBytes emptyLine ⟨[]⟩ line = (⟨line.take 10⟩, []) :=
    onBytes_of_not_terminator emptyLine [] fun v hv => by
      rw [← Bool.not_eq_true, isTerminator_iff]
      exact not_or.2 (hline v hv)
  refine ⟨hfill, ?_⟩
  rw [onBytes_append, hfill, onBytes, onBytes, onByte_of_terminator emptyLine _ (isTerminator_iff.2 hb)]
  by_cases hnil : line = [] <;> cases emptyLine <;> simp [hnil, lineEvents]

end Sys2Proof.Machine
